-- ==== Sys2Proof/Word.lean ====
section
/-! DEFINITION. The value widths of the block: bytes (scratch, input, result characters) and 16-bit words (hash, table
entries); rules R5 and R9. -/

namespace Sys2Proof

/-- A byte: one scratch byte, one input byte or one result character (R5 `SCRATCH_W`, R9, R27). -/
abbrev Byte := BitVec 8

/-- A 16-bit unsigned value: the hash accumulator or a table entry (R5 `HASH_W`, `LUT_W`). -/
abbrev HashWord := BitVec 16

/-- Sixteen bytes, index 0 first: the scratch register `S`, the result register `OUT` (R21, R27), a fold (R134). -/
abbrev Bytes16 := Vector Byte 16

end Sys2Proof
end

