-- ==== Sys2Proof/Config.lean ====
section
/-! DEFINITION. What an implementation fixes and what the spec leaves open: the named sizes of rule R5, the lookup table
as a configuration (R6, R26, R56, R57), and the free values, constants with no body, that stand for every value the spec
calls unspecified (R36, R191, R200). -/

namespace Sys2Proof

/-- The configuration of one instance: the 256 values of the lookup table (R6, R26, R56). `State` carries it and no
step changes it; every claim over all states is a claim over all tables. Log entry 1. -/
structure Config where
  /-- `LUT[n]`, 256 entries of 16 bits (R54). -/
  LUT : Vector HashWord 256
deriving DecidableEq, Repr

/-- `HASH_INIT` (R5): the value of `H` at the start of every operation. -/
def Config.hashInit : HashWord := 0x0011

/-- `SCRATCH_INIT` (R5): the value of every byte of `S` at the start of every operation. -/
def Config.scratchInit : Byte := 0x00

/-- `ROUNDS` (R5): rounds per operation. -/
def Config.rounds : Nat := 5

/-- `MAP_MASK` (R5): the mask applied before the letter test. -/
def Config.mapMask : Byte := 0x7F

/-- `MAP_OFFSET` (R5): the code added to the top nibble. -/
def Config.mapOffset : Byte := 0x61

/-- Entries 0 to 63 of the default table of R57 (PRESUMED, log entry 1). -/
def Config.defaultTable0 : List HashWord :=
  [[0x0000, 0xC0C1, 0xC181, 0x0140, 0xC301, 0x03C0, 0x0280, 0xC241],
   [0xC601, 0x06C0, 0x0780, 0xC741, 0x0500, 0xC5C1, 0xC481, 0x0440],
   [0xCC01, 0x0CC0, 0x0D80, 0xCD41, 0x0F00, 0xCFC1, 0xCE81, 0x0E40],
   [0x0A00, 0xCAC1, 0xCB81, 0x0B40, 0xC901, 0x09C0, 0x0880, 0xC841],
   [0xD801, 0x18C0, 0x1980, 0xD941, 0x1B00, 0xDBC1, 0xDA81, 0x1A40],
   [0x1E00, 0xDEC1, 0xDF81, 0x1F40, 0xDD01, 0x1DC0, 0x1C80, 0xDC41],
   [0x1400, 0xD4C1, 0xD581, 0x1540, 0xD701, 0x17C0, 0x1680, 0xD641],
   [0xD201, 0x12C0, 0x1380, 0xD341, 0x1100, 0xD1C1, 0xD081, 0x1040]].flatten

/-- Entries 64 to 127 of the default table of R57 (PRESUMED, log entry 1). -/
def Config.defaultTable1 : List HashWord :=
  [[0xF001, 0x30C0, 0x3180, 0xF141, 0x3300, 0xF3C1, 0xF281, 0x3240],
   [0x3600, 0xF6C1, 0xF781, 0x3740, 0xF501, 0x35C0, 0x3480, 0xF441],
   [0x3C00, 0xFCC1, 0xFD81, 0x3D40, 0xFF01, 0x3FC0, 0x3E80, 0xFE41],
   [0xFA01, 0x3AC0, 0x3B80, 0xFB41, 0x3900, 0xF9C1, 0xF881, 0x3840],
   [0x2800, 0xE8C1, 0xE981, 0x2940, 0xEB01, 0x2BC0, 0x2A80, 0xEA41],
   [0xEE01, 0x2EC0, 0x2F80, 0xEF41, 0x2D00, 0xEDC1, 0xEC81, 0x2C40],
   [0xE401, 0x24C0, 0x2580, 0xE541, 0x2700, 0xE7C1, 0xE681, 0x2640],
   [0x2200, 0xE2C1, 0xE381, 0x2340, 0xE101, 0x21C0, 0x2080, 0xE041]].flatten

/-- Entries 128 to 191 of the default table of R57 (PRESUMED, log entry 1). -/
def Config.defaultTable2 : List HashWord :=
  [[0xA001, 0x60C0, 0x6180, 0xA141, 0x6300, 0xA3C1, 0xA281, 0x6240],
   [0x6600, 0xA6C1, 0xA781, 0x6740, 0xA501, 0x65C0, 0x6480, 0xA441],
   [0x6C00, 0xACC1, 0xAD81, 0x6D40, 0xAF01, 0x6FC0, 0x6E80, 0xAE41],
   [0xAA01, 0x6AC0, 0x6B80, 0xAB41, 0x6900, 0xA9C1, 0xA881, 0x6840],
   [0x7800, 0xB8C1, 0xB981, 0x7940, 0xBB01, 0x7BC0, 0x7A80, 0xBA41],
   [0xBE01, 0x7EC0, 0x7F80, 0xBF41, 0x7D00, 0xBDC1, 0xBC81, 0x7C40],
   [0xB401, 0x74C0, 0x7580, 0xB541, 0x7700, 0xB7C1, 0xB681, 0x7640],
   [0x7200, 0xB2C1, 0xB381, 0x7340, 0xB101, 0x71C0, 0x7080, 0xB041]].flatten

/-- Entries 192 to 255 of the default table of R57 (PRESUMED, log entry 1). -/
def Config.defaultTable3 : List HashWord :=
  [[0x5000, 0x90C1, 0x9181, 0x5140, 0x9301, 0x53C0, 0x5280, 0x9241],
   [0x9601, 0x56C0, 0x5780, 0x9741, 0x5500, 0x95C1, 0x9481, 0x5440],
   [0x9C01, 0x5CC0, 0x5D80, 0x9D41, 0x5F00, 0x9FC1, 0x9E81, 0x5E40],
   [0x5A00, 0x9AC1, 0x9B81, 0x5B40, 0x9901, 0x59C0, 0x5880, 0x9841],
   [0x8801, 0x48C0, 0x4980, 0x8941, 0x4B00, 0x8BC1, 0x8A81, 0x4A40],
   [0x4E00, 0x8EC1, 0x8F81, 0x4F40, 0x8D01, 0x4DC0, 0x4C80, 0x8C41],
   [0x4400, 0x84C1, 0x8581, 0x4540, 0x8701, 0x47C0, 0x4680, 0x8641],
   [0x8201, 0x42C0, 0x4380, 0x8341, 0x4100, 0x81C1, 0x8081, 0x4040]].flatten

/-- The default table of R57, embedded verbatim; general knowledge, not the source (X1). PRESUMED, log entry 1. -/
def Config.default : Config where
  LUT := ⟨[Config.defaultTable0, Config.defaultTable1, Config.defaultTable2, Config.defaultTable3].flatten.toArray,
    by decide +kernel⟩

/-- An arbitrary byte for each count: scratch and result bytes the spec leaves unspecified (R36, R191, R200). FREE VALUE,
log entry 3. -/
opaque Config.freeByte : Nat → Byte

/-- An arbitrary 16-bit value for each count: `H` after an `rst` edge (R36, R191). FREE VALUE, log entry 3. -/
opaque Config.freeHash : Nat → HashWord

/-- An arbitrary natural number for each count: `LEN` and `jm` after an `rst` edge (R36). FREE VALUE, log entry 3. -/
opaque Config.freeLength : Nat → Nat

/-- An arbitrary 4-bit index for each count: `jw`, `i` and `k` after an `rst` edge (R36). FREE VALUE, log entry 3. -/
opaque Config.freeIndex : Nat → Fin 16

/-- An arbitrary 3-bit value for each count: `r` after an `rst` edge (R36). FREE VALUE, log entry 3. -/
opaque Config.freeRound : Nat → Fin 8

end Sys2Proof
end

