-- ==== Sys2Proof/Syntax.lean ====
section
/-! DEFINITION. The seven operations of the block, one constructor per row of spec/opcode_table.json (R91): two host
commands and the five phases of the sequencer, each with the operand its format gives it (R80, R82). -/

namespace Sys2Proof

/-- The operations of R91. A command's operand is the port `len` (R80); a micro-operation's operand is the index field
that belongs to its phase (R82). -/
inductive Instr where
  /-- Command `NOP`: `start` = 0 (R100). -/
  | nop
  /-- Command `ENCODE len`: `start` = 1 (R101). Lengths have no upper bound (R6, R81). -/
  | encode (len : Nat)
  /-- Phase `IDLE`: no micro-operation, the sequencer waits (R109). -/
  | idle
  /-- Micro-operation `MIX jm` (R130). -/
  | mix (jm : Nat)
  /-- Micro-operation `HSTEP i` (R140). -/
  | hstep (i : Fin 16)
  /-- Micro-operation `REWR jw` (R144). -/
  | rewr (jw : Fin 16)
  /-- Micro-operation `MAP k` (R161). -/
  | map (k : Fin 16)
deriving DecidableEq, Repr

end Sys2Proof
end

