-- ==== Sys2Proof/WellFormed.lean ====
section
/-! DEFINITION. Which operations the formats admit (R81, R82): every operand fits its type but for `REWR`, whose scratch
index is one of 0, 2, ..., 14. -/

namespace Sys2Proof

/-- The operand is one the format gives the operation. Only `REWR` asks for more than its type says: `jw` is even
(R82, R144). That a `MIX jm` has `jm` below `LEN` (R130) is about the state, not about the operation's form. -/
def Instr.wf : Instr → Bool
  | .nop => true
  | .encode _ => true
  | .idle => true
  | .mix _ => true
  | .hstep _ => true
  | .rewr jw => jw.val % 2 == 0
  | .map _ => true

end Sys2Proof
end

