-- ==== Sys2Proof/Decode.lean ====
section
/-! DEFINITION. The two formats of 30_encoding.md, `CMD` (R80) and `UOP` (R82): the decoder, total and refusing by name,
the encoder written from the same tables, and `decodeTableWord`, which reads a number of spec/opcode_table.json. -/

namespace Sys2Proof

/-- One operation in coded form. -/
inductive Code where
  /-- Format `CMD`: the command word `{len, op}`, `op` in bit 0 and `len` from bit 1 up (R80). -/
  | cmd (word : Nat)
  /-- Format `UOP`: the 3-bit phase field and the index field that belongs to that phase (R82). -/
  | uop (ph : BitVec 3) (operand : Nat)
deriving DecidableEq, Repr

/-- Why a coded operation is none of the seven. A command is never refused (R86). -/
inductive DecodeError where
  /-- A phase code 101, 110 or 111, which R86 reserves. -/
  | reservedPhase
  /-- The index of an `HSTEP`, `REWR` or `MAP` is above 15 (R82). -/
  | indexAbove15
  /-- The index of a `REWR` is odd (R82, R144). -/
  | rewriteIndexOdd
deriving DecidableEq, Repr

/-- Bit 0 of a command word: the field `op` (R80). -/
def commandOp (word : Nat) : Bool := word % 2 == 1

/-- Bits `LEN_W:1` of a command word: the field `len`, unsigned and unscaled (R80, R81). -/
def commandLen (word : Nat) : Nat := word / 2

/-- The command word `{len, op}` (R80). -/
def commandWord (op : Bool) (len : Nat) : Nat := 2 * len + op.toNat

/-- Format `CMD`: both values of `op` are commands and every `len` is legal (R80, R86). -/
def decodeCommand (word : Nat) : Instr :=
  if commandOp word then .encode (commandLen word) else .nop

/-- The 4-bit index operand of `HSTEP`, `REWR` and `MAP` (R82). -/
def decodeIndex (operand : Nat) : Except DecodeError (Fin 16) :=
  if h : operand < 16 then .ok ⟨operand, h⟩ else .error .indexAbove15

/-- The index operand of `REWR`: one of 0, 2, ..., 14 (R82). -/
def decodeRewriteIndex (operand : Nat) : Except DecodeError (Fin 16) :=
  match decodeIndex operand with
  | .ok jw => if jw.val % 2 = 0 then .ok jw else .error .rewriteIndexOdd
  | .error e => .error e

/-- Format `UOP`: the phase code selects the micro-operation, codes 5 to 7 are reserved (R82, R86). -/
def decodeMicro (ph : BitVec 3) (operand : Nat) : Except DecodeError Instr :=
  match ph.toNat with
  | 0 => .ok .idle
  | 1 => .ok (.mix operand)
  | 2 => (decodeIndex operand).map .hstep
  | 3 => (decodeRewriteIndex operand).map .rewr
  | 4 => (decodeIndex operand).map .map
  | _ => .error .reservedPhase

/-- The decoder of both formats (R91). -/
def decode : Code → Except DecodeError Instr
  | .cmd word => .ok (decodeCommand word)
  | .uop ph operand => decodeMicro ph operand

/-- The encoder, from the tables of R80 and R82. `NOP` ignores `len`; its word here has `len` = 0. `IDLE` has no
operand; the operand here is 0. -/
def encode : Instr → Code
  | .nop => .cmd (commandWord false 0)
  | .encode len => .cmd (commandWord true len)
  | .idle => .uop 0b000#3 0
  | .mix jm => .uop 0b001#3 jm
  | .hstep i => .uop 0b010#3 i.val
  | .rewr jw => .uop 0b011#3 jw.val
  | .map k => .uop 0b100#3 k.val

/-- Which format a number of spec/opcode_table.json is taken for. The table's `CMD` rows have one bit and its `UOP` rows
three (R91), and the two formats use the same numbers; where `nbits` does not tell them apart, 2 to 7 can only be phase
codes (a `CMD` row's word with its operand zero is 0 or 1), and every other number is a command word, which is what the
block looks at in the phase reset leaves it in (R36, R87). DESIGN CHOICE, log entry 14. -/
def tableCode (nbits w : Nat) : Code :=
  if nbits = 1 then .cmd w
  else if nbits = 3 ∨ (2 ≤ w ∧ w < 8) then .uop (BitVec.ofNat 3 w) 0
  else .cmd w

/-- The operation the decoder reads from a table word; operand fields the table gives no bits are 0. -/
def decodeTableWord (nbits w : Nat) : Option Instr :=
  (decode (tableCode nbits w)).toOption

end Sys2Proof
end

