-- ==== Sys2Proof/Machine/Memory.lean ====
section
/-! DEFINITION. The input space `IN` (R50, R62): bytes at natural-number indices, held as a list of (index, byte) pairs
in one canonical form. The block only reads it (R53); the host stores into it (R195). -/

namespace Sys2Proof.Machine

/-- The bytes the host has placed behind the input read port (R50): the listed cells, indices strictly rising, and no
cell equal to what an unlisted index reads as. -/
abbrev Memory := List Host.Cell

/-- What an index the host has not written reads as. The spec gives no content before the host places its bytes (R195);
0x00 is the model's. DESIGN CHOICE, log entry 6. -/
def Memory.unlisted : Byte := 0x00

/-- `MemRead(IN, j, 1)` (R50): every read returns a byte (R51, R63). -/
def Memory.read : Memory → Nat → Byte
  | [], _ => Memory.unlisted
  | (a, v) :: m, j => if j = a then v else Memory.read m j

/-- A cell in front of a memory whose indices are all above it, left out where it says what an unlisted index says. -/
def Memory.cons (j : Nat) (v : Byte) (m : Memory) : Memory :=
  if v = Memory.unlisted then m else (j, v) :: m

/-- The host stores byte `v` at index `j` (R195); the canonical form is kept. -/
def Memory.write : Memory → Nat → Byte → Memory
  | [], j, v => Memory.cons j v []
  | (a, w) :: m, j, v =>
    if j < a then Memory.cons j v ((a, w) :: m)
    else if j = a then Memory.cons j v m
    else (a, w) :: Memory.write m j v

/-- The host stores several bytes, one after another. -/
def Memory.writeAll : Memory → List Host.Cell → Memory
  | m, [] => m
  | m, c :: cs => Memory.writeAll (Memory.write m c.1 c.2) cs

/-- The canonical form: indices strictly rising and no cell that says what an unlisted index says. -/
def Memory.wf : Memory → Bool
  | [] => true
  | (a, v) :: m => v != Memory.unlisted && m.all (fun c => decide (a < c.1)) && Memory.wf m

end Sys2Proof.Machine
end

