-- ==== Sys2Proof/Machine/State.lean ====
section
/-! DEFINITION. The machine's state as plain data: every piece of state of rule R20 (10_state.md), the constant table
(R26), the host as an agent (R33, R38), the reasons a step can stop, and the state after reset (R36, R190). -/

namespace Sys2Proof.Machine

/-- The sequencer phase `ph` (R30, R82): the five legal codes; 5, 6 and 7 are not representable, as X8 prefers. -/
inductive Phase where
  /-- `IDLE` = 000. -/
  | idle
  /-- `MIX` = 001. -/
  | mix
  /-- `HSTEP` = 010. -/
  | hstep
  /-- `REWR` = 011. -/
  | rewr
  /-- `MAP` = 100. -/
  | map
deriving DecidableEq, Repr

/-- What the host presents at one rising clock edge: the block's input ports of R33 (`in_data` is the byte of `IN` at
`in_idx`, R203, log entry 5) and what it does to its own input space before the next edge (R195, R200). -/
structure Pins where
  /-- Port `rst`, active high (R190). -/
  rst : Bool
  /-- Port `start`, the field `op`: true is `ENCODE`, false is `NOP` (R80). -/
  start : Bool
  /-- Port `len`, the operand of `ENCODE` (R80, R81). -/
  len : Nat
  /-- Port `in_ack` (R51). -/
  inAck : Bool
  /-- The bytes the host stores into its own input space (R195, R200), any number of them, none or a whole new input: the
  spec sets no limit. No port of the block. That what changes between two edges stands in one finite list with the first of
  them, lands after what the block does there, and that of two cells with the same index the later wins, is the model's: DESIGN
  CHOICE, log entry 7. -/
  hostStores : List Host.Cell
deriving DecidableEq, Repr

/-- The whole machine: the block (R20), its configuration (R26), and the host (R33, R38). -/
structure State where
  /-- `S[0..15]`, the scratch register (R21). -/
  S : Bytes16
  /-- `H`, the hash accumulator (R24). -/
  H : HashWord
  /-- `OUT[0..15]`, the result register (R27). -/
  OUT : Bytes16
  /-- `LEN`, the length latch (R29). -/
  LEN : Nat
  /-- `ph`, the sequencer phase (R30). -/
  ph : Phase
  /-- `r`, the round counter, 3 bits (R30). -/
  r : Fin 8
  /-- `jm`, the mix index (R30). -/
  jm : Nat
  /-- `jw`, the rewrite index, 4 bits (R30). -/
  jw : Fin 16
  /-- `i`, the scan index, 4 bits (R30). -/
  i : Fin 16
  /-- `k`, the map index, 4 bits (R30). -/
  k : Fin 16
  /-- `DONE`, the one stored flag (R32). -/
  DONE : Bool
  /-- The configuration: the lookup table, constant (R26). Log entry 1. -/
  cfg : Config
  /-- `IN`, the host's input space (R38, R50). -/
  IN : Memory
  /-- What the host presents at the coming edges, the next one first. Log entry 4. -/
  pins : List Pins
  /-- The model's own: the host changed an input byte of the operation in progress (R200). Log entries 3 and 8. -/
  inputChanged : Bool
  /-- The model's own: how many free values have been drawn (R36, R191, R200). Log entry 3. -/
  fresh : Nat
deriving DecidableEq, Repr

/-- Nothing raises a fault: "its fault type is empty" (R170); "Implementers must not introduce failure paths" (R171).
Log entry 10. -/
inductive Fault
deriving DecidableEq, Repr

/-- Why a step has no next state. All but the first are the `stuck` of X8: states that R39 calls unreachable and for
which no rule gives a next state. Log entry 9. -/
inductive Refusal where
  /-- Raised by an arm of `exec` whose instruction has no meaning yet; none is left. Safe. -/
  | notModelled (mnemonic : String)
  /-- Raised by `step` where the sequencer's fields are no micro-operation: `REWR` with an odd `jw` (R82, R86). Safe:
  unreachable (R39), and the model stops. -/
  | noSuchOperation (e : DecodeError)
  /-- Raised by `MIX jm` with `jm` at or above `LEN`: the index is outside `IN` and "the block never reads an index at or
  above `LEN`" (R50, R130). Safe: unreachable (R39), and the model stops. -/
  | inputIndexOutsideIN
  /-- Raised by `REWR` with an odd index (R144). Safe: unreachable (R39), and the model stops. -/
  | rewriteIndexOdd
  /-- Raised by `REWR 14` with `r` above 4, a round R107 gives no next state for. Safe: unreachable (R39), and the model
  stops. -/
  | roundAboveFour
deriving DecidableEq, Repr

/-- The machine right after reset (R36, R190): `ph` = `IDLE` and `DONE` = 0. Every other register is unspecified there
(X4) and holds 0 here, DESIGN CHOICE, log entry 2; the table is the default of R57, log entry 1; the host has placed
nothing and presents nothing, log entries 4 and 6; the model's own fields start at 0, log entry 3. -/
def State.reset : State where
  S := Vector.replicate 16 0
  H := 0
  OUT := Vector.replicate 16 0
  LEN := 0
  ph := .idle
  r := 0
  jm := 0
  jw := 0
  i := 0
  k := 0
  DONE := false
  cfg := Config.default
  IN := []
  pins := []
  inputChanged := false
  fresh := 0

end Sys2Proof.Machine
end

