-- ==== Sys2Proof/Machine/Flags.lean ====
section
/-! DEFINITION. Status and output ports: the derived status `BUSY` (R32), the ports `busy`, `done`, `in_req`, `in_idx`,
`out_chars` (R33, R51), and the result as the host may read it (R28, R112). The block has no condition codes (R32). -/

namespace Sys2Proof.Machine

/-- `BUSY`, port `busy` (R32): `ph` is not `IDLE`. -/
def State.busy (s : State) : Bool := s.ph != .idle

/-- Port `done` (R33): the flag `DONE`. -/
def State.done (s : State) : Bool := s.DONE

/-- Port `in_req` (R33, R35, R51): the outstanding request is `ph` = `MIX`. -/
def State.inReq (s : State) : Bool := s.ph == .mix

/-- Port `in_idx` (R33): `jm` while `in_req` = 1, no value otherwise. -/
def State.inIdx (s : State) : Option Nat := if s.inReq then some s.jm else none

/-- Sixteen bytes on a 128-bit port, byte `k` in bits `8k+7:8k` (R33, R58). -/
def packBytes : List Byte → BitVec 128
  | [] => 0
  | b :: bs => (packBytes bs <<< 8) ||| b.setWidth 128

/-- Port `out_chars` (R33): `OUT[k]` in bits `8k+7:8k`. -/
def State.outChars (s : State) : BitVec 128 := packBytes s.OUT.toList

/-- The result the host may use: the content of `OUT` while `DONE` = 1, nothing otherwise (R28, R112, R201). -/
def State.result (s : State) : Option Bytes16 := if s.DONE then some s.OUT else none

/-- `DONE <- 0` (R101). -/
def State.clearDone (s : State) : State := { s with DONE := false }

/-- `DONE <- 1` (R108). -/
def State.setDone (s : State) : State := { s with DONE := true }

end Sys2Proof.Machine
end

