-- ==== Sys2Proof/Machine/Operands.lean ====
section
/-! DEFINITION. Operand and index assembly (R83): every index and every field the operations take from a value. -/

namespace Sys2Proof.Machine

/-- R83 (a), R132: the scratch index of `MIX`, `15 - (jm mod 16)`. -/
def scratchIndex (jm : Nat) : Fin 16 := ⟨15 - jm % 16, by omega⟩

/-- R83 (b), R144: `H[7:0]`. -/
def lowByte (h : HashWord) : Byte := h.extractLsb' 0 8

/-- R144: `H[15:8]`. -/
def highByte (h : HashWord) : Byte := h.extractLsb' 8 8

/-- R83 (d): the second scratch index of `REWR`, `jw + 1`; at most 15 for the operands R144 gives. -/
def rewriteHighIndex (jw : Fin 16) : Fin 16 := jw + 1

/-- R144: an operand of `REWR` is one of 0, 2, ..., 14. -/
def isRewriteIndex (jw : Fin 16) : Bool := jw.val % 2 == 0

/-- R83 (f), R160: the masked code `S[k][6:0]`, carried in 8 bits. -/
def maskedCode (b : Byte) : Byte := b &&& Config.mapMask

/-- R83 (e), R160: the top nibble `S[k][7:4]`, zero-extended to 8 bits. -/
def topNibble (b : Byte) : Byte := b >>> 4

/-- R12: the letter test, `A` to `Z` or `a` to `z` (the code of `A` to `Z` is standard ASCII, PRESUMED, log entry 18). -/
def isLetter (c : Byte) : Bool :=
  (0x41#8 ≤ c && c ≤ 0x5A#8) || (0x61#8 ≤ c && c ≤ 0x7A#8)

end Sys2Proof.Machine
end

