-- ==== Sys2Proof/Machine/Ops.lean ====
section
/-! DEFINITION. The named operations over the registers, the two read-only spaces and the sequencer that the meanings are
built from; reset as one operation (R190); the host's own store into its input space (R195, R200).

TAKING AN EXCEPTION: there is none to take. "The block raises no synchronous exception of any kind" (R170), it takes no
interrupt (R172), "no state is saved anywhere on any event, there is no vector table" and "a model needs no trap-entry
function for this block" (R175), and there is no return from one (R176). -/

namespace Sys2Proof.Machine

/-- `MemRead(IN, j, 1)` (R50). -/
def State.readIN (s : State) (j : Nat) : Byte := Memory.read s.IN j

/-- `LUT[n]` (R54): the index is an 8-bit value, so every index is in range. -/
def readLUT (c : Config) (n : Byte) : HashWord := c.LUT[n.toNat]'(by have := n.isLt; omega)

/-- `S[n] <- v` (R21). -/
def State.writeS (s : State) (n : Fin 16) (v : Byte) : State := { s with S := s.S.set n v }

/-- `H <- v` (R24). -/
def State.writeH (s : State) (v : HashWord) : State := { s with H := v }

/-- `OUT[k] <- v` (R27). -/
def State.writeOUT (s : State) (k : Fin 16) (v : Byte) : State := { s with OUT := s.OUT.set k v }

/-- `ph <- MIX; jm <- 0` (R101, R107). -/
def State.toMixPass (s : State) : State := { s with ph := .mix, jm := 0 }

/-- `ph <- HSTEP; jw <- 0; i <- 15` (R101, R105, R107). -/
def State.toHashPass (s : State) : State := { s with ph := .hstep, jw := 0, i := 15 }

/-- The start of a round (R101, R107): the mix-in pass, or the hash-and-rewrite pass at once where `LEN` = 0. -/
def State.toRound (s : State) : State := if s.LEN = 0 then s.toHashPass else s.toMixPass

/-- The data part of the acceptance of `ENCODE len` (R101, `INIT`): `S`, `H`, `LEN`, `r`. From here on the input bytes are
those of this operation, so none of them has been changed yet (R200). -/
def State.initialise (s : State) (len : Nat) : State :=
  { s with
    S := Vector.replicate 16 Config.scratchInit
    H := Config.hashInit
    LEN := len
    r := 0
    inputChanged := false }

/-- `jm <- v` (R105). -/
def State.setJm (s : State) (v : Nat) : State := { s with jm := v }

/-- `i <- v` (R106). -/
def State.setI (s : State) (v : Fin 16) : State := { s with i := v }

/-- `ph <- REWR` (R106). -/
def State.toRewr (s : State) : State := { s with ph := .rewr }

/-- `jw <- v; i <- 15; ph <- HSTEP` (R107): the next evaluation of `pr_hash` of the same pass. -/
def State.toNextHash (s : State) (v : Fin 16) : State := { s with jw := v, i := 15, ph := .hstep }

/-- `r <- v` (R107). -/
def State.setR (s : State) (v : Fin 8) : State := { s with r := v }

/-- `ph <- MAP; k <- 0` (R107). -/
def State.toMapPass (s : State) : State := { s with ph := .map, k := 0 }

/-- `k <- v` (R108). -/
def State.setK (s : State) (v : Fin 16) : State := { s with k := v }

/-- `ph <- IDLE` (R108, R190). -/
def State.toIdle (s : State) : State := { s with ph := .idle }

/-- Sixteen bytes about which nothing is known, drawn from count `n` on. FREE VALUES, log entry 3. -/
def freeBytes (n : Nat) : Bytes16 := Vector.ofFn fun k : Fin 16 => Config.freeByte (n + k.val)

/-- RESET, the effect of an edge with `rst` = 1 (R190, R191): `ph <- IDLE` and `DONE <- 0`; every other register of the
block is unspecified afterwards (R36, X4, X12), so it holds a free value (log entry 3). The table, the host and its bytes
are not affected. -/
def State.resetBlock (s : State) : State :=
  { s with
    S := freeBytes s.fresh
    H := Config.freeHash s.fresh
    OUT := freeBytes (s.fresh + 16)
    LEN := Config.freeLength s.fresh
    ph := .idle
    r := Config.freeRound s.fresh
    jm := Config.freeLength (s.fresh + 1)
    jw := Config.freeIndex s.fresh
    i := Config.freeIndex (s.fresh + 1)
    k := Config.freeIndex (s.fresh + 2)
    DONE := false
    inputChanged := false
    fresh := s.fresh + 32 }

/-- A clock edge at which the host is quiet: no reset, `NOP`, every input read answered. What the host presents once the
list of samples is used up. DESIGN CHOICE, log entry 4. -/
def Pins.quiet : Pins where
  rst := false
  start := false
  len := 0
  inAck := true
  hostStores := []

/-- What the host presents at the next edge. -/
def State.edge (s : State) : Pins := s.pins.headD Pins.quiet

/-- The next edge is past. -/
def State.pastEdge (s : State) : State := { s with pins := s.pins.tail }

/-- The edge leaves a `MIX` waiting: an input byte is asked for and `in_ack` is 0 (R51, R130). -/
def State.waiting (s : State) : Bool := s.inReq && !s.edge.inAck

/-- The host's stores at an edge break R200: an operation is in progress and one of its input bytes is another than before. -/
def State.storesBreakInput (s : State) (cs : List Host.Cell) : Bool :=
  s.busy && cs.any fun c => decide (c.1 < s.LEN) && (Memory.read (Memory.writeAll s.IN cs) c.1 != s.readIN c.1)

/-- The host's stores at an edge, after what the block did at that edge (R195, R200; the order is a DESIGN CHOICE, log entry
7). Stores that break R200 are remembered: the result of the operation is then unspecified (log entry 8). -/
def State.hostStore (s : State) (p : Pins) : State :=
  { s with
    IN := Memory.writeAll s.IN p.hostStores
    inputChanged := s.inputChanged || s.storesBreakInput p.hostStores }

/-- The host's stores at an edge, after an outcome of the block at that edge. -/
def afterEdge (p : Pins) : Host.Outcome State Fault Refusal → Host.Outcome State Fault Refusal
  | .next t => .next (t.hostStore p)
  | .fault e => .fault e
  | .refused e => .refused e

end Sys2Proof.Machine
end

