-- ==== Sys2Proof/Machine/HashRewrite.lean ====
section
/-! DEFINITION. The hash step as a function (R141), the micro-operation `HSTEP` (R140, R106) and the micro-operation
`REWR` (R144, R107). -/

namespace Sys2Proof.Machine

/-- `hstep(h, b)` (R141): `(h >> 8) ^ LUT[h[7:0]] ^ LUT[b]`. -/
def hashStep (c : Config) (h : HashWord) (b : Byte) : HashWord :=
  (h >>> 8) ^^^ readLUT c (lowByte h) ^^^ readLUT c b

/-- `HSTEP i` (R140) with its next state (R106). -/
def execHstep (i : Fin 16) (s : State) : Host.Outcome State Fault Refusal :=
  .next (if i.val = 0 then (s.writeH (hashStep s.cfg s.H s.S[i])).toRewr
    else (s.writeH (hashStep s.cfg s.H s.S[i])).setI (i - 1))

/-- The data effect of `REWR jw` (R144): the low byte of `H` at `jw`, the high byte at `jw + 1`. -/
def State.rewrite (s : State) (jw : Fin 16) : State :=
  (s.writeS jw (lowByte s.H)).writeS (rewriteHighIndex jw) (highByte s.H)

/-- `REWR jw` (R144) with its next state (R107). An odd index is none of the operation's operands, and a round above 4 has
no next state in R107: the machine is stuck, log entry 9. -/
def execRewr (jw : Fin 16) (s : State) : Host.Outcome State Fault Refusal :=
  if isRewriteIndex jw then
    if jw.val < 14 then .next ((s.rewrite jw).toNextHash (jw + 2))
    else if s.r.val < 4 then .next ((s.rewrite jw).setR (s.r + 1)).toRound
    else if s.r.val = 4 then .next (s.rewrite jw).toMapPass
    else .refused .roundAboveFour
  else .refused .rewriteIndexOdd

end Sys2Proof.Machine
end

