-- ==== Sys2Proof/Machine/HostCommands.lean ====
section
/-! DEFINITION. The two host commands, `NOP` (R100) and `ENCODE` (R101, R102), and the phase `IDLE` (R109). -/

namespace Sys2Proof.Machine

/-- `NOP` (R100): "no state of the block changes because of the command". -/
def execNop (s : State) : Host.Outcome State Fault Refusal := .next s

/-- `ENCODE len`: accepted only with `ph` = `IDLE`, where it performs `INIT` and starts the first round (R101); while busy
it "has no effect at all" (R102). -/
def execEncode (len : Nat) (s : State) : Host.Outcome State Fault Refusal :=
  if s.busy then .next s else .next ((s.initialise len).clearDone.toRound)

/-- `IDLE` (R109): "the block performs no micro-operation and changes no state". -/
def execIdle (s : State) : Host.Outcome State Fault Refusal := .next s

end Sys2Proof.Machine
end

