-- ==== Sys2Proof/Machine/MixIn.lean ====
section
/-! DEFINITION. The micro-operation `MIX` (R130, R105). The wait for `in_ack` is the step's (R51). -/

namespace Sys2Proof.Machine

/-- The data effect of `MIX jm` (R130): `S[15 - (jm mod 16)]` becomes its exclusive-or with the input byte. -/
def State.mixByte (s : State) (jm : Nat) : State :=
  s.writeS (scratchIndex jm) (s.S[scratchIndex jm] ^^^ s.readIN jm)

/-- `MIX jm` (R130) with its next state (R105). An index outside `IN` (R50) is not read: the machine is stuck, log
entry 9. -/
def execMix (jm : Nat) (s : State) : Host.Outcome State Fault Refusal :=
  if jm < s.LEN then
    .next (if jm + 1 = s.LEN then (s.mixByte jm).toHashPass else (s.mixByte jm).setJm (jm + 1))
  else .refused .inputIndexOutsideIN

end Sys2Proof.Machine
end

