-- ==== Sys2Proof/Machine/OutputMapper.lean ====
section
/-! DEFINITION. The mapper function (R160), the micro-operation `MAP` (R161, R108), and what the result is when the host
changed the input during the operation (R200). -/

namespace Sys2Proof.Machine

/-- `map(byte)` (R160): the masked code where it is a letter, else the top nibble of the unmasked byte plus 0x61. -/
def mapByte (b : Byte) : Byte :=
  if isLetter (maskedCode b) then maskedCode b else topNibble b + Config.mapOffset

/-- Sixteen letters about which nothing else is known: the mapper, whose image is the 52 letters (R162), over free bytes.
FREE VALUES, log entries 3 and 8. -/
def freeLetters (n : Nat) : Bytes16 := (freeBytes n).map mapByte

/-- The result register as the completed operation leaves it. Where the host changed an input byte during the operation,
"the operation still completes with `DONE` = 1 and 16 letters in `OUT`, but which letters is not defined" (R200, X6). -/
def State.settleResult (s : State) : State :=
  if s.inputChanged then { s with OUT := freeLetters s.fresh, fresh := s.fresh + 16 } else s

/-- `MAP k` (R161) with its next state (R108). -/
def execMap (k : Fin 16) (s : State) : Host.Outcome State Fault Refusal :=
  .next (if k.val = 15 then (s.writeOUT k (mapByte s.S[k])).settleResult.toIdle.setDone
    else (s.writeOUT k (mapByte s.S[k])).setK (k + 1))

end Sys2Proof.Machine
end

