-- ==== Sys2Proof/Machine/Dispatch.lean ====
section
/-! DEFINITION. One arm per operation, each one direct call of its meaning. -/

namespace Sys2Proof.Machine

/-- The meaning of an operation in a state. -/
def exec (i : Instr) (s : State) : Host.Outcome State Fault Refusal :=
  match i with
  | .nop => Sys2Proof.Machine.execNop s
  | .encode len => Sys2Proof.Machine.execEncode len s
  | .idle => Sys2Proof.Machine.execIdle s
  | .mix jm => Sys2Proof.Machine.execMix jm s
  | .hstep n => Sys2Proof.Machine.execHstep n s
  | .rewr jw => Sys2Proof.Machine.execRewr jw s
  | .map k => Sys2Proof.Machine.execMap k s

end Sys2Proof.Machine
end

