-- ==== Sys2Proof/Machine/Fetch.lean ====
section
/-! DEFINITION. Which coded operation an edge performs. A micro-operation "is not fetched from anywhere; it is selected by
the 3-bit phase field" and its operand is the index field of that phase (R82); a command is looked at only in `IDLE` (R87). -/

namespace Sys2Proof.Machine

/-- The code of a phase (R82). -/
def Phase.code : Phase → BitVec 3
  | .idle => 0b000#3
  | .mix => 0b001#3
  | .hstep => 0b010#3
  | .rewr => 0b011#3
  | .map => 0b100#3

/-- The phase of a code; 101, 110 and 111 are no phase (R86). -/
def Phase.ofCode (c : BitVec 3) : Option Phase :=
  match c.toNat with
  | 0 => some .idle
  | 1 => some .mix
  | 2 => some .hstep
  | 3 => some .rewr
  | 4 => some .map
  | _ => none

/-- The command the host presents, as the word `{len, op}` (R80). -/
def Pins.command (p : Pins) : Nat := commandWord p.start p.len

/-- The operation the next edge performs (R82, R87, R104): in `IDLE` the command presented or, where the host presents no
sample, the phase `IDLE` itself (R100: there is no difference; log entry 19); in every other phase the micro-operation of
the phase with its index field. -/
def State.fetch (s : State) : Code :=
  match s.ph with
  | .idle =>
    match s.pins with
    | [] => .uop Phase.idle.code 0
    | p :: _ => .cmd p.command
  | .mix => .uop Phase.mix.code s.jm
  | .hstep => .uop Phase.hstep.code s.i.val
  | .rewr => .uop Phase.rewr.code s.jw.val
  | .map => .uop Phase.map.code s.k.val

/-- `s` with command word `w` presented at the next edge and the sequencer in `IDLE`, where a command is looked at. -/
def State.presentCommand (s : State) (w : Nat) : State :=
  { s with
    ph := .idle
    pins := { Pins.quiet with start := commandOp w, len := commandLen w } :: s.pins }

/-- `s` with the sequencer in phase `q` and the index field of that phase 0, the host quiet at the next edge. `MIX 0` reads
an input byte, so the operation has one (`LEN` = 1) where it had none. `IDLE` runs where the host presents no sample. -/
def State.selectPhase (s : State) (q : Phase) : State :=
  match q with
  | .idle => { s with ph := .idle, pins := [] }
  | .mix => { s with ph := .mix, jm := 0, LEN := max s.LEN 1, pins := Pins.quiet :: s.pins }
  | .hstep => { s with ph := .hstep, i := 0, pins := Pins.quiet :: s.pins }
  | .rewr => { s with ph := .rewr, jw := 0, pins := Pins.quiet :: s.pins }
  | .map => { s with ph := .map, k := 0, pins := Pins.quiet :: s.pins }

/-- `s` with coded operation `c` where the next step takes its operation from; unchanged for a reserved phase code. -/
def State.present (s : State) : Code → State
  | .cmd w => s.presentCommand w
  | .uop ph _ =>
    match Phase.ofCode ph with
    | some q => s.selectPhase q
    | none => s

end Sys2Proof.Machine
end

