-- ==== Sys2Proof/Machine/Step.lean ====
section
/-! DEFINITION. One step of the machine: one rising clock edge (R174, R104), and the placing of a coded operation where the
step takes its next one from. -/

namespace Sys2Proof.Machine

/-- One edge. `rst` = 1 "wins over everything" (R174, R190); an unanswered input read waits (R51, R130); else the one
operation the phase and the command port select is performed (R87, R102, R104). The host's own stores land after it
(log entry 7). One step is not one clock cycle (R208, log entry 13). -/
def step (s : State) : Host.Outcome State Fault Refusal :=
  afterEdge s.edge
    (if s.edge.rst then .next s.pastEdge.resetBlock
    else if s.waiting then .next s.pastEdge
    else match decode s.fetch with
      | .ok i => exec i s.pastEdge
      | .error e => .refused (.noSuchOperation e))

/-- `s` with the operation of a table word where `step` takes its next operation from: a command word on the command port
of an idle block, a phase code in the sequencer (log entry 14). -/
def State.withFetchWord (s : State) (nbits w : Nat) : State := s.present (tableCode nbits w)

end Sys2Proof.Machine
end

