-- ==== Sys2Proof/Machine/Algorithm.lean ====
section
/-! DEFINITION. The command level (R8): the procedure of R103 as a function of the length, the input bytes and the table,
written from its loops, apart from the stepped machine; the fold of an input (R134). -/

namespace Sys2Proof.Machine

/-- The working data of the procedure: `scratch` and `hash` (R103). -/
structure Work where
  /-- `scratch[0..15]`. -/
  scratch : Bytes16
  /-- `hash`. -/
  hash : HashWord
deriving DecidableEq, Repr

/-- Step 1 of R103: `scratch` is 16 zero bytes, `hash` is 17. -/
def Work.start : Work where
  scratch := Vector.replicate 16 Config.scratchInit
  hash := Config.hashInit

/-- The first `n` iterations of the loop of step 2a (R103, R131), `j` from 0 up. -/
def mixInBytes (input : Nat → Byte) : Nat → Bytes16 → Bytes16
  | 0, S => S
  | n + 1, S =>
    (mixInBytes input n S).set (scratchIndex n) ((mixInBytes input n S)[scratchIndex n] ^^^ input n)

/-- The first `n` steps of `pr_hash` (R103, R142): indices 15 down to `16 - n`. -/
def prHashSteps (c : Config) (S : Bytes16) : Nat → HashWord → HashWord
  | 0, h => h
  | n + 1, h => hashStep c (prHashSteps c S n h) S[15 - n]

/-- `pr_hash(scratch, hash)` (R103, R142): sixteen steps, index 15 down to 0. -/
def prHash (c : Config) (S : Bytes16) (h : HashWord) : HashWord := prHashSteps c S 16 h

/-- One iteration of the loop of step 2b at `j` = `2 * n` (R103, R146): `pr_hash`, then the two byte writes. -/
def hashRewrite (c : Config) (w : Work) (n : Fin 8) : Work :=
  { scratch :=
      (w.scratch.set (2 * n.val) (lowByte (prHash c w.scratch w.hash))).set (2 * n.val + 1)
        (highByte (prHash c w.scratch w.hash))
    hash := prHash c w.scratch w.hash }

/-- Step 2b (R103, R146): `j` = 0, 2, ..., 14. -/
def hashPass (c : Config) (w : Work) : Work :=
  [0, 1, 2, 3, 4, 5, 6, 7].foldl (hashRewrite c) w

/-- One round (R147): the mix-in pass, then the hash-and-rewrite pass. -/
def encodeRound (c : Config) (len : Nat) (input : Nat → Byte) (w : Work) : Work :=
  hashPass c { w with scratch := mixInBytes input len w.scratch }

/-- The first `n` rounds of step 2 (R103). -/
def encodeRounds (c : Config) (len : Nat) (input : Nat → Byte) : Nat → Work
  | 0 => Work.start
  | n + 1 => encodeRound c len input (encodeRounds c len input n)

/-- `encode(input, len)` (R103): five rounds, then the mapper over the scratch bytes in index order (R165). -/
def encodeBytes (c : Config) (len : Nat) (input : Nat → Byte) : Bytes16 :=
  (encodeRounds c len input Config.rounds).scratch.map mapByte

/-- The fold `F` of an input (R134): byte `n` is the exclusive-or of the `input[j]` with `j < len` and
`15 - (j mod 16) = n`. -/
def foldInput (len : Nat) (input : Nat → Byte) : Bytes16 :=
  Vector.ofFn fun n : Fin 16 =>
    (((List.range len).filter fun j => scratchIndex j == n).map input).foldl (· ^^^ ·) 0

end Sys2Proof.Machine
end

