-- ==== Sys2Proof/Safety.lean ====
section
/-! DEFINITION. The terms claims use: runs of several edges, the invariant of R39 with what R32, R148 and R162 add to it,
and the host's duties of R200 and R203. -/

namespace Sys2Proof.Machine

/-- `n` edges, stopping at the first stop. -/
def run : Nat → State → Host.Outcome State Fault Refusal
  | 0, s => .next s
  | n + 1, s =>
    match step s with
    | .next t => run n t
    | .fault e => .fault e
    | .refused e => .refused e

/-- What holds in every reachable state (R39), the input space in its canonical form, and what the completed operation
leaves: letters in `OUT` (R162) and the last hash value in the last two scratch bytes (R148). -/
structure Inv (s : State) : Prop where
  /-- R39: `r` <= 4 whenever `ph` is `MIX`, `HSTEP` or `REWR`. -/
  round_le : s.ph = .mix ∨ s.ph = .hstep ∨ s.ph = .rewr → s.r.val ≤ 4
  /-- R39: `jm` < `LEN` whenever `ph` = `MIX`. -/
  jm_lt : s.ph = .mix → s.jm < s.LEN
  /-- R39: `jw` is even (and so at most 14) whenever `ph` is `HSTEP` or `REWR`. -/
  jw_even : s.ph = .hstep ∨ s.ph = .rewr → s.jw.val % 2 = 0
  /-- R39: `DONE` = 1 implies `ph` = `IDLE`. -/
  done_idle : s.DONE = true → s.ph = .idle
  /-- R148: after the last pass, until the operation ends, `H` = `S[15]` x 256 + `S[14]`. -/
  hash_kept : s.ph = .map → s.H = s.S[15] ++ s.S[14]
  /-- R161, R162: in the `MAP` phase the result characters below `k` are letters. -/
  mapped_letters : s.ph = .map → ∀ n : Fin 16, n.val < s.k.val → isLetter s.OUT[n] = true
  /-- R162: while `DONE` = 1 every result character is a letter. -/
  done_letters : s.DONE = true → ∀ n : Fin 16, isLetter s.OUT[n] = true
  /-- The host's input space is in its canonical form. -/
  memory_wf : Memory.wf s.IN = true

/-- The host keeps the `len` bytes of `input` unchanged at this edge (R200) and does not reset. It may present any command,
leave a read waiting, and store any byte from index `len` on or again the byte that is there. -/
abbrev Pins.stable (len : Nat) (input : Nat → Byte) (p : Pins) : Prop :=
  p.rst = false ∧ ∀ c ∈ p.hostStores, c.1 < len → c.2 = input c.1

/-- At the next `n` edges the host answers every input read at the edge that asks for it; what `in_ack` is at an edge with
`in_req` = 0 does not matter (R33, R51). -/
def ReadsAnswered (n : Nat) (s : State) : Prop :=
  ∀ (m : Nat) (u : State), m < n → run m s = .next u → u.inReq = true → u.edge.inAck = true

end Sys2Proof.Machine
end

