-- ==== Sys2Proof/Certificates/Slice0/Obligations.lean ====
section
/-! DEFINITION. The statements for the provers. Each says which rule of spec/ it formalises, or that it is derived. -/

open Sys2Proof Sys2Proof.Machine

/-! ## Encoding -/

/-- DERIVED from the formats of R80 and R82: the decoder reads back what the encoder writes, with every operand at every
value the format admits; it gives well-formed operations only; and no bit of a code is dropped, but for what the formats
say is ignored (the `len` of `NOP`, the operand of `IDLE`). -/
def Obligations.DecodeAndEncodeAgree : Prop :=
  (∀ i : Instr, i.wf = true → decode (encode i) = .ok i) ∧
  (∀ (c : Code) (i : Instr), decode c = .ok i → i.wf = true) ∧
  (∀ (c : Code) (i : Instr), decode c = .ok i → i ≠ .nop → i ≠ .idle → encode i = c)

/-- R86: the command format has no illegal encoding, the phase codes 5, 6 and 7 are refused, and the sequencer holds none of
them. -/
def Obligations.ReservedPhaseCodesAreRefused : Prop :=
  (∀ w : Nat, decode (.cmd w) = .ok (if w % 2 = 1 then .encode (w / 2) else .nop)) ∧
  (∀ (c : BitVec 3) (operand : Nat), 5 ≤ c.toNat → decode (.uop c operand) = .error .reservedPhase) ∧
  (∀ q : Phase, q.code.toNat < 5)

/-- DERIVED (R91 and the command words of 95_test_vectors.md section 9): codes written out from the spec decode to what they
stand for. -/
def Obligations.CodesOfTheSpecDecode : Prop :=
  decode (.cmd 0x0) = .ok .nop ∧
  decode (.cmd 0x1) = .ok (.encode 0) ∧
  decode (.cmd 0x17) = .ok (.encode 11) ∧
  decode (.cmd 0x29) = .ok (.encode 20) ∧
  decode (.uop 0b000#3 0) = .ok .idle ∧
  decode (.uop 0b001#3 19) = .ok (.mix 19) ∧
  decode (.uop 0b010#3 15) = .ok (.hstep 15) ∧
  decode (.uop 0b011#3 14) = .ok (.rewr 14) ∧
  decode (.uop 0b100#3 7) = .ok (.map 7)

/-! ## The operations -/

/-- R100: `NOP` is every command word with `op` = 0, it changes nothing, and an operation in progress continues: at an edge
that is no reset and no wait, the block performs the micro-operation of its phase, not the command. -/
def Obligations.NopChangesNothing : Prop :=
  (∀ len : Nat, decode (.cmd (2 * len)) = .ok .nop) ∧
  (∀ s : State, exec .nop s = .next s) ∧
  (∀ (s : State) (p : Pins) (rest : List Pins), Inv s → s.pins = p :: rest → s.busy = true → p.start = false →
    p.rst = false → s.waiting = false →
    ∃ i, decode s.fetch = .ok i ∧ i ≠ .nop ∧ i ≠ .idle ∧ step s = afterEdge p (exec i s.pastEdge))

/-- R101: `ENCODE len` is the command word with `op` = 1; it is accepted only in `IDLE`, and there for every `len`: `S`, `H`,
`LEN`, `DONE`, `r` and the first phase. `OUT` is not cleared; nothing else changes. (`inputChanged` and `fresh` are the model's
own fields, log entry 3.) -/
def Obligations.EncodeInIdleInitialises : Prop :=
  (∀ len : Nat, decode (.cmd (2 * len + 1)) = .ok (.encode len)) ∧
  (∀ (s : State) (len : Nat), s.ph ≠ .idle → exec (.encode len) s = .next s) ∧
  ∀ (s : State) (len : Nat), s.ph = .idle →
    ∃ t : State, exec (.encode len) s = .next t ∧
      (∀ n : Fin 16, t.S[n] = 0x00#8) ∧ t.H = 0x0011#16 ∧ t.LEN = len ∧ t.DONE = false ∧ t.r = 0 ∧
      (if len = 0 then t.ph = .hstep ∧ t.jw = 0 ∧ t.i = 15 ∧ t.jm = s.jm
        else t.ph = .mix ∧ t.jm = 0 ∧ t.jw = s.jw ∧ t.i = s.i) ∧
      t.busy = true ∧
      t.OUT = s.OUT ∧ t.k = s.k ∧ t.cfg = s.cfg ∧ (∀ a : Nat, t.readIN a = s.readIN a) ∧ t.pins = s.pins ∧
      t.fresh = s.fresh ∧ t.inputChanged = false

/-- R102: while busy an `ENCODE` has no effect at all, as an operation and at an edge (the step does not depend on the
command presented); in `IDLE` it is accepted with the `len` presented at that edge. -/
def Obligations.EncodeWhileBusyHasNoEffect : Prop :=
  (∀ (s : State) (len : Nat), s.ph ≠ .idle → exec (.encode len) s = .next s) ∧
  (∀ (s : State) (p : Pins) (rest : List Pins) (start : Bool) (len : Nat), s.ph ≠ .idle →
    step { s with pins := { p with start := start, len := len } :: rest } = step { s with pins := p :: rest }) ∧
  (∀ (s : State) (p : Pins) (rest : List Pins), s.ph = .idle → s.pins = p :: rest → p.rst = false → p.start = true →
    step s = afterEdge p (exec (.encode p.len) s.pastEdge))

/-- R109: in `IDLE` the block performs no micro-operation and changes no state, except on the acceptance of an `ENCODE` or on
reset; `busy` = 0 and `in_req` = 0. At an edge only the host's own samples and bytes move on. -/
def Obligations.IdleChangesNothing : Prop :=
  decode (.uop 0b000#3 0) = .ok .idle ∧
  (∀ s : State, exec .idle s = .next s) ∧
  (∀ s : State, s.ph = .idle → s.busy = false ∧ s.inReq = false) ∧
  (∀ s : State, s.ph = .idle → s.pins = [] → step s = .next s) ∧
  (∀ (s : State) (p : Pins) (rest : List Pins), s.ph = .idle → s.pins = p :: rest → p.rst = false → p.start = false →
    step s = .next (s.pastEdge.hostStore p))

/-- R130 with the next state of R105: `MIX jm`, for `jm` < `LEN`, exclusive-ors the input byte into scratch byte
`15 - (jm mod 16)`; nothing else changes but the sequencer's fields; an unacknowledged read waits and does nothing else. -/
def Obligations.MixXorsOneScratchByte : Prop :=
  (∀ (s : State) (jm : Nat), jm < s.LEN →
    decode (.uop 0b001#3 jm) = .ok (.mix jm) ∧
    ∃ t : State, exec (.mix jm) s = .next t ∧
      (∀ n : Fin 16, t.S[n] = if n.val = 15 - jm % 16 then s.S[n] ^^^ s.readIN jm else s.S[n]) ∧
      (if jm + 1 = s.LEN then t.ph = .hstep ∧ t.jw = 0 ∧ t.i = 15 ∧ t.jm = s.jm
        else t.ph = s.ph ∧ t.jm = jm + 1 ∧ t.jw = s.jw ∧ t.i = s.i) ∧
      t.r = s.r ∧ t.H = s.H ∧ t.OUT = s.OUT ∧ t.LEN = s.LEN ∧ t.DONE = s.DONE ∧ t.k = s.k ∧ t.cfg = s.cfg ∧
      (∀ a : Nat, t.readIN a = s.readIN a) ∧ t.pins = s.pins ∧ t.fresh = s.fresh ∧ t.inputChanged = s.inputChanged) ∧
  (∀ (s : State) (p : Pins) (rest : List Pins), s.ph = .mix → s.pins = p :: rest → p.rst = false → p.inAck = false →
    step s = .next (s.pastEdge.hostStore p))

/-- R140 with the next state of R106: `HSTEP i` replaces `H` by `(H >> 8) ^ LUT[H[7:0]] ^ LUT[S[i]]`, all of `H` on the right
being the value before; `LUT[n]` is entry `n` of the table; where `H[7:0]` = `S[i]` the new `H` is `H >> 8` whatever the table
holds. -/
def Obligations.HstepReplacesHash : Prop :=
  (∀ (c : Config) (n : Fin 256), readLUT c (BitVec.ofNat 8 n.val) = c.LUT[n]) ∧
  ∀ (s : State) (i : Fin 16),
    decode (.uop 0b010#3 i.val) = .ok (.hstep i) ∧
    ∃ t : State, exec (.hstep i) s = .next t ∧
      t.H = (s.H >>> 8) ^^^ readLUT s.cfg (s.H.setWidth 8) ^^^ readLUT s.cfg s.S[i] ∧
      (s.H.setWidth 8 = s.S[i] → t.H = s.H >>> 8) ∧
      (if i.val = 0 then t.ph = .rewr ∧ t.i = s.i else t.ph = s.ph ∧ t.i.val + 1 = i.val) ∧
      t.jw = s.jw ∧ t.r = s.r ∧ t.S = s.S ∧ t.OUT = s.OUT ∧ t.LEN = s.LEN ∧ t.DONE = s.DONE ∧ t.jm = s.jm ∧ t.k = s.k ∧
      t.cfg = s.cfg ∧ (∀ a : Nat, t.readIN a = s.readIN a) ∧ t.pins = s.pins ∧ t.fresh = s.fresh ∧
      t.inputChanged = s.inputChanged

/-- R144 with the next state of R107: `REWR jw`, for `jw` one of 0, 2, ..., 14, writes `H[7:0]` to `S[jw]` and `H[15:8]` to
`S[jw+1]` and nothing else of `S`, and leaves `H` (R145). -/
def Obligations.RewrWritesHashLowByteFirst : Prop :=
  ∀ (s : State) (jw : Fin 16), jw.val % 2 = 0 → (jw.val < 14 ∨ s.r.val ≤ 4) →
    decode (.uop 0b011#3 jw.val) = .ok (.rewr jw) ∧
    ∃ t : State, exec (.rewr jw) s = .next t ∧
      (∀ n : Fin 16, t.S[n] = if n.val = jw.val then s.H.setWidth 8
        else if n.val = jw.val + 1 then (s.H >>> 8).setWidth 8 else s.S[n]) ∧
      t.H = s.H ∧
      (if jw.val < 14 then
          t.ph = .hstep ∧ t.jw.val = jw.val + 2 ∧ t.i = 15 ∧ t.r = s.r ∧ t.jm = s.jm ∧ t.k = s.k
        else if s.r.val < 4 then
          t.r.val = s.r.val + 1 ∧ t.k = s.k ∧
          (if s.LEN = 0 then t.ph = .hstep ∧ t.jw = 0 ∧ t.i = 15 ∧ t.jm = s.jm
            else t.ph = .mix ∧ t.jm = 0 ∧ t.jw = s.jw ∧ t.i = s.i)
        else t.ph = .map ∧ t.k = 0 ∧ t.r = s.r ∧ t.jm = s.jm ∧ t.jw = s.jw ∧ t.i = s.i) ∧
      t.OUT = s.OUT ∧ t.LEN = s.LEN ∧ t.DONE = s.DONE ∧ t.cfg = s.cfg ∧ (∀ a : Nat, t.readIN a = s.readIN a) ∧
      t.pins = s.pins ∧ t.fresh = s.fresh ∧ t.inputChanged = s.inputChanged

/-- DERIVED from R161, R108 and R200: `MAP k` writes the mapped scratch byte to `OUT[k]` and no other character; with `k` = 15
the operation is complete; the phase `MAP` is entered only by `REWR 14` in the fifth round. THE MODEL'S CHOICE is the clause for
`inputChanged` (log entry 8; R200 and X6 leave the letters open): where the host broke R200 during the operation, the last `MAP`
leaves 16 letters of which nothing more is said, in place of R161's character; all else is the same. -/
def Obligations.MapWritesOneCharacter : Prop :=
  (∀ (s : State) (k : Fin 16),
    decode (.uop 0b100#3 k.val) = .ok (.map k) ∧
    ∃ t : State, exec (.map k) s = .next t ∧
      (if s.inputChanged = true ∧ k.val = 15 then ∀ n : Fin 16, isLetter t.OUT[n] = true
        else t.fresh = s.fresh ∧ ∀ n : Fin 16, t.OUT[n] = if n = k then mapByte s.S[n] else s.OUT[n]) ∧
      (if k.val = 15 then t.ph = .idle ∧ t.DONE = true ∧ t.k = s.k
        else t.ph = s.ph ∧ t.DONE = s.DONE ∧ t.k.val = k.val + 1) ∧
      t.S = s.S ∧ t.H = s.H ∧ t.LEN = s.LEN ∧ t.r = s.r ∧ t.jm = s.jm ∧ t.jw = s.jw ∧ t.i = s.i ∧ t.cfg = s.cfg ∧
      (∀ a : Nat, t.readIN a = s.readIN a) ∧ t.pins = s.pins ∧ t.inputChanged = s.inputChanged) ∧
  (∀ s t : State, step s = .next t → t.ph = .map → s.ph = .map ∨ (s.ph = .rewr ∧ s.jw.val = 14 ∧ s.r.val = 4))

/-- THE MODEL'S CHOICE (log entry 9; X8's `stuck` taken over to the operands that R39, R130, R144 and R107 exclude): an input
index outside `IN`, an odd rewrite index and a round above 4 stop, each by its name. -/
def Obligations.ExcludedOperandsAreStuck : Prop :=
  (∀ (s : State) (jm : Nat), s.LEN ≤ jm → exec (.mix jm) s = .refused .inputIndexOutsideIN) ∧
  (∀ (s : State) (jw : Fin 16), jw.val % 2 = 1 → exec (.rewr jw) s = .refused .rewriteIndexOdd) ∧
  (∀ s : State, 4 < s.r.val → exec (.rewr 14) s = .refused .roundAboveFour) ∧
  (∀ s : State, s.ph = .rewr → s.jw.val % 2 = 1 → s.edge.rst = false →
    step s = .refused (.noSuchOperation .rewriteIndexOdd))

/-! ## The mapper -/

/-- R160: the mapper as arithmetic on the byte: the masked value where it is the code of a letter, else the top nibble of the
unmasked byte plus 0x61. -/
def Obligations.MapperIsMaskOrNibble : Prop :=
  ∀ b : Byte, (mapByte b).toNat =
    if (0x41 ≤ b.toNat % 128 ∧ b.toNat % 128 ≤ 0x5A) ∨ (0x61 ≤ b.toNat % 128 ∧ b.toNat % 128 ≤ 0x7A)
    then b.toNat % 128 else b.toNat / 16 + 0x61

/-- R162: the image of the mapper is the 52 letters; bit 7 of every character is 0. -/
def Obligations.MapperImageIsTheLetters : Prop :=
  (∀ b : Byte, isLetter (mapByte b) = true ∧ (mapByte b).getLsbD 7 = false) ∧
  (∀ c : Byte, isLetter c = true → ∃ b : Byte, mapByte b = c)

/-! ## The step -/

/-- DERIVED (R82, R104): at an edge that is no reset and no wait, the step is the meaning of the decoded operation, in the
state with this edge's sample taken off. THE MODEL'S CHOICE (log entry 7): the host's own stores follow it. -/
def Obligations.StepRunsTheDecodedOperation : Prop :=
  ∀ (s : State) (i : Instr), decode s.fetch = .ok i → i.wf = true → s.edge.rst = false → s.waiting = false →
    (∀ t, exec i s.pastEdge = .next t → step s = .next (t.hostStore s.edge)) ∧
    (∀ e, exec i s.pastEdge = .refused e → step s = .refused e)

/-- DERIVED from R104: which operation is enabled in each phase. -/
def Obligations.PhaseSelectsTheEnabledOperation : Prop :=
  ∀ s : State,
    (s.ph = .idle → ∃ i, decode s.fetch = .ok i ∧ (i = .idle ∨ i = .nop ∨ ∃ len, i = .encode len)) ∧
    (s.ph = .mix → decode s.fetch = .ok (.mix s.jm)) ∧
    (s.ph = .hstep → decode s.fetch = .ok (.hstep s.i)) ∧
    (s.ph = .rewr → s.jw.val % 2 = 0 → decode s.fetch = .ok (.rewr s.jw)) ∧
    (s.ph = .map → decode s.fetch = .ok (.map s.k))

/-- R190: an edge with `rst` = 1, in any state and whatever else is presented: `ph` = `IDLE`, `DONE` = 0, so `busy`, `done` and
`in_req` are 0; the table is not affected, nor is an input byte the host does not store. R190 says nothing of what the other
registers hold, and neither does this statement. -/
def Obligations.ResetEdgeClearsPhaseAndDone : Prop :=
  ∀ s : State, s.edge.rst = true →
    ∃ t : State, step s = .next t ∧
      t.ph = .idle ∧ t.DONE = false ∧ t.busy = false ∧ t.done = false ∧ t.inReq = false ∧ t.cfg = s.cfg ∧
      t.pins = s.pins.tail ∧
      (s.edge.hostStores = [] ∨ Memory.wf s.IN = true →
        ∀ a : Nat, (∀ c ∈ s.edge.hostStores, c.1 ≠ a) → t.readIN a = s.readIN a)

/-- THE MODEL'S CHOICE (log entry 3; R36 and R191 leave the values open): after an `rst` edge every register but `ph` and
`DONE` holds a free value, a constant with no body of the count of values drawn, whatever it held before. -/
def Obligations.ResetEdgeLeavesFreeValues : Prop :=
  ∀ s : State, s.edge.rst = true →
    ∃ t : State, step s = .next t ∧
      t.S = freeBytes s.fresh ∧ t.H = Config.freeHash s.fresh ∧ t.OUT = freeBytes (s.fresh + 16) ∧
      t.LEN = Config.freeLength s.fresh ∧ t.r = Config.freeRound s.fresh ∧ t.jm = Config.freeLength (s.fresh + 1) ∧
      t.jw = Config.freeIndex s.fresh ∧ t.i = Config.freeIndex (s.fresh + 1) ∧ t.k = Config.freeIndex (s.fresh + 2) ∧
      s.fresh + 16 < t.fresh

/-- DERIVED from R174 and R202: an `ENCODE` presented at the edge that completes `MAP 15` is not accepted there; still
presented at the next edge it is, so `done` = 1 shows for that one edge. -/
def Obligations.CommandHeldIsAcceptedAfterDone : Prop :=
  ∀ (s : State) (p q : Pins) (rest : List Pins), s.ph = .map → s.k.val = 15 → s.pins = p :: q :: rest →
    p.rst = false → q.rst = false → q.start = true →
    ∃ t u : State, step s = .next t ∧ t.ph = .idle ∧ t.DONE = true ∧ t.LEN = s.LEN ∧
      step t = .next u ∧ u.DONE = false ∧ u.busy = true ∧ u.LEN = q.len ∧ u.H = 0x0011#16

/-- DERIVED (R50, R195): a byte the host stores is read back (of two for the same index the later one, THE MODEL'S CHOICE, log
entry 7), every index it does not store reads as before, the input space keeps its canonical form, and no register of the block
changes by it. -/
def Obligations.HostStoreIsReadBack : Prop :=
  ∀ (s : State) (p : Pins), Memory.wf s.IN = true →
    (∀ (before after : List Host.Cell) (a : Nat) (b : Byte), p.hostStores = before ++ (a, b) :: after →
      (∀ c ∈ after, c.1 ≠ a) → (s.hostStore p).readIN a = b) ∧
    (∀ a : Nat, (∀ c ∈ p.hostStores, c.1 ≠ a) → (s.hostStore p).readIN a = s.readIN a) ∧
    Memory.wf (s.hostStore p).IN = true ∧
    { s.hostStore p with IN := s.IN, inputChanged := s.inputChanged } = s

/-! ## Whole-machine rules -/

/-- What R36 and R190 say reset leaves: `ph` = `IDLE` and `DONE` = 0, so `busy`, `done` and `in_req` are 0. DERIVED; nothing is
said of the registers R36 leaves unspecified. -/
def Obligations.ResetStateIsIdleAndNotDone : Prop :=
  State.reset.ph = .idle ∧ State.reset.DONE = false ∧ State.reset.busy = false ∧ State.reset.done = false ∧
  State.reset.inReq = false ∧ State.reset.result = none

/-- DERIVED from R39 and R192: the invariant holds at reset, and after an `rst` edge from any state at all (before the first
reset nothing is known of the block), as long as the host's bytes stand in their canonical form. -/
def Obligations.InvariantHoldsAtReset : Prop :=
  Inv State.reset ∧
  (∀ s : State, s.edge.rst = true → Memory.wf s.IN = true → ∃ t : State, step s = .next t ∧ Inv t)

/-- DERIVED from R39 ("by induction over the next-state rules"): every step keeps the invariant, whatever the host presents and stores, in every state that meets it. -/
def Obligations.InvariantKeptByEveryStep : Prop :=
  ∀ s t : State, Inv s → step s = .next t → Inv t

/-- R39 and R170: every state that a run reaches from reset, with any table, any placed input and anything the host presents,
meets the invariant; in every state that meets it the step returns a next state; and there is no fault. -/
def Obligations.EveryReachableStateHasANextState : Prop :=
  (∀ _ : Fault, False) ∧
  (∀ s : State, Inv s → ∃ t : State, step s = .next t) ∧
  (∀ (n : Nat) (c : Config) (m : Memory) (ps : List Pins), Memory.wf m = true →
    ∃ t : State, run n { State.reset with cfg := c, IN := m, pins := ps } = .next t ∧ Inv t)

/-- R53: the block writes no memory: no operation changes the table, an input byte or what the host presents; a step never
changes the table, and every input byte that the host itself does not store at that edge reads as before. -/
def Obligations.BlockWritesNoMemory : Prop :=
  (∀ (i : Instr) (s t : State), exec i s = .next t →
    t.cfg = s.cfg ∧ (∀ a : Nat, t.readIN a = s.readIN a) ∧ t.pins = s.pins) ∧
  (∀ s t : State, step s = .next t → t.cfg = s.cfg ∧
    (s.edge.hostStores = [] ∨ Memory.wf s.IN = true →
      ∀ a : Nat, (∀ c ∈ s.edge.hostStores, c.1 ≠ a) → t.readIN a = s.readIN a))

/-- DERIVED from the column "written by" of R20 (R22, R24, R27, R29, R30, R32): at an edge that is no reset, who may write each
register; in every phase but `IDLE` the micro-operation of the phase may write `ph`, in `IDLE` only an accepted `ENCODE`. -/
def Obligations.RegistersChangeOnlyByTheirWriters : Prop :=
  ∀ s t : State, step s = .next t → s.edge.rst = false →
    (t.S ≠ s.S → (s.ph = .idle ∧ s.edge.start = true) ∨ s.ph = .mix ∨ s.ph = .rewr) ∧
    (t.H ≠ s.H → (s.ph = .idle ∧ s.edge.start = true) ∨ s.ph = .hstep) ∧
    (t.OUT ≠ s.OUT → s.ph = .map) ∧
    (t.LEN ≠ s.LEN → s.ph = .idle ∧ s.edge.start = true) ∧
    (t.DONE ≠ s.DONE → (s.ph = .idle ∧ s.edge.start = true) ∨ (s.ph = .map ∧ s.k.val = 15)) ∧
    (t.ph ≠ s.ph → s.ph = .idle → s.edge.start = true) ∧
    (t.r ≠ s.r → (s.ph = .idle ∧ s.edge.start = true) ∨ (s.ph = .rewr ∧ s.jw.val = 14)) ∧
    (t.jm ≠ s.jm → (s.ph = .idle ∧ s.edge.start = true) ∨ s.ph = .mix ∨ s.ph = .rewr) ∧
    (t.jw ≠ s.jw → (s.ph = .idle ∧ s.edge.start = true) ∨ s.ph = .mix ∨ s.ph = .rewr) ∧
    (t.i ≠ s.i → (s.ph = .idle ∧ s.edge.start = true) ∨ s.ph = .mix ∨ s.ph = .hstep ∨ s.ph = .rewr) ∧
    (t.k ≠ s.k → s.ph = .rewr ∨ s.ph = .map) ∧
    (s.waiting = true → t.S = s.S ∧ t.ph = s.ph ∧ t.jm = s.jm ∧ t.jw = s.jw ∧ t.i = s.i)

/-- DERIVED from R32: `busy` and `done` are never 1 together, and an input request is always in range (R50). -/
def Obligations.BusyAndDoneAreNeverTogether : Prop :=
  ∀ s : State, Inv s →
    ¬(s.busy = true ∧ s.done = true) ∧ (∀ j : Nat, s.inIdx = some j → j < s.LEN)

/-- DERIVED from R112 and R28: once complete, the result stays on the ports through any number of edges at which the host
neither resets nor presents `ENCODE`, whatever it stores into its input space (R200: it may reuse the input storage). -/
def Obligations.ResultStaysUntilNextCommand : Prop :=
  ∀ (n : Nat) (s : State), s.ph = .idle → (∀ p ∈ s.pins, p.rst = false ∧ p.start = false) →
    ∃ t : State, run n s = .next t ∧ t.ph = .idle ∧ t.DONE = s.DONE ∧ t.OUT = s.OUT ∧ t.result = s.result ∧
      t.outChars = s.outChars

/-- DERIVED from R33 and R58: on the port `out_chars`, `OUT[k]` stands in bits `8k+7:8k`. -/
def Obligations.OutCharsHoldsCharacterKAtByteK : Prop :=
  ∀ (s : State) (k : Fin 16), s.outChars.extractLsb' (8 * k.val) 8 = s.OUT[k]

/-! ## Passes and the whole operation -/

/-- R142: sixteen steps from `HSTEP 15`, whatever the host does but reset, are one evaluation of `pr_hash`: `hstep` over `S[15]`, `S[14]`, ..., `S[0]`, the result
left in `H`, the scratch register only read. -/
def Obligations.SixteenHstepsArePrHash : Prop :=
  ∀ s : State, s.ph = .hstep → s.i = 15 → (∀ p ∈ s.pins.take 16, p.rst = false) →
    ∃ t : State, run 16 s = .next t ∧
      t.H = (List.finRange 16).reverse.foldl (fun h n => hashStep s.cfg h s.S[n]) s.H ∧
      t.ph = .rewr ∧ t.S = s.S ∧ t.jw = s.jw ∧ t.r = s.r ∧ t.OUT = s.OUT ∧ t.LEN = s.LEN ∧ t.DONE = s.DONE

/-- DERIVED from R131 and R134: the `LEN` steps of a mix-in pass, each read answered at once and the input kept stable,
exclusive-or the fold of the input into the scratch register, leave `H`, and lead to `HSTEP 15`. -/
def Obligations.MixPassXorsTheFold : Prop :=
  ∀ s : State, s.ph = .mix → s.jm = 0 → 0 < s.LEN → Memory.wf s.IN = true →
    (∀ p ∈ s.pins.take s.LEN, p.inAck = true ∧ p.stable s.LEN s.readIN) →
    ∃ t : State, run s.LEN s = .next t ∧
      (∀ n : Fin 16, t.S[n] = s.S[n] ^^^ (foldInput s.LEN s.readIN)[n]) ∧
      t.ph = .hstep ∧ t.jw = 0 ∧ t.i = 15 ∧ t.H = s.H ∧ t.r = s.r ∧ t.OUT = s.OUT ∧ t.LEN = s.LEN ∧ t.DONE = s.DONE

/-- DERIVED from R146, R148 and R107: the 136 steps of a hash-and-rewrite pass, whatever the host does but
reset, are the pass of R103; at its end
`H` = `S[15]` x 256 + `S[14]`, and the next round or the `MAP` phase begins. -/
def Obligations.HashPassRewritesTheScratch : Prop :=
  ∀ s : State, s.ph = .hstep → s.jw = 0 → s.i = 15 → s.r.val ≤ 4 → (∀ p ∈ s.pins.take 136, p.rst = false) →
    ∃ t : State, run 136 s = .next t ∧
      t.S = (hashPass s.cfg { scratch := s.S, hash := s.H }).scratch ∧
      t.H = (hashPass s.cfg { scratch := s.S, hash := s.H }).hash ∧
      t.H = t.S[15] ++ t.S[14] ∧
      (if s.r.val < 4 then t.r.val = s.r.val + 1 ∧ t.ph = (if s.LEN = 0 then .hstep else .mix)
        else t.ph = .map ∧ t.k = 0) ∧
      t.LEN = s.LEN ∧ t.OUT = s.OUT ∧ t.DONE = s.DONE

/-- R111 (with R103 and R110): the two levels agree. From any idle state, whatever it holds, an accepted `ENCODE len` whose
reads are all answered at once (`in_ack` is free where no read is asked for) and whose `len` input bytes are kept unchanged
(other bytes may be stored) ends after exactly `5 * len + 696` further steps with `DONE` = 1 and `OUT`, the readable result,
= `encode(input, len)`, whatever commands the host presents meanwhile; until then the block is busy and `DONE` = 0. -/
def Obligations.OperationDeliversTheEncodeResult : Prop :=
  ∀ (s : State) (p : Pins) (rest : List Pins), s.ph = .idle → s.pins = p :: rest → p.start = true → Memory.wf s.IN = true →
    (∀ q ∈ (p :: rest).take (5 * p.len + 697), q.stable p.len s.readIN) → ReadsAnswered (5 * p.len + 697) s →
    (∃ t : State, run (5 * p.len + 697) s = .next t ∧ t.DONE = true ∧ t.ph = .idle ∧
      t.OUT = encodeBytes s.cfg p.len s.readIN ∧ t.result = some (encodeBytes s.cfg p.len s.readIN)) ∧
    (∀ n : Nat, 1 ≤ n → n < 5 * p.len + 697 → ∃ u : State, run n s = .next u ∧ u.busy = true ∧ u.DONE = false)

/-- DERIVED from R206 and R203: every operation ends, however the host delays its answers to the input reads, as long as it does
not reset and keeps the `len` input bytes unchanged; from the edge of acceptance until then the block is busy; the result is
`encode(input, len)`. It rests on log entry 4: a host that presents no more samples answers at once. -/
def Obligations.EveryOperationEnds : Prop :=
  ∀ (s : State) (p : Pins) (rest : List Pins), s.ph = .idle → s.pins = p :: rest → p.start = true → Memory.wf s.IN = true →
    (∀ q ∈ p :: rest, q.stable p.len s.readIN) →
    ∃ (n : Nat) (t : State), 1 ≤ n ∧ n ≤ rest.length + 5 * p.len + 697 ∧ run n s = .next t ∧ t.DONE = true ∧ t.ph = .idle ∧
      t.OUT = encodeBytes s.cfg p.len s.readIN ∧
      (∀ m : Nat, 1 ≤ m → m < n → ∃ u : State, run m s = .next u ∧ u.busy = true ∧ u.DONE = false)

/-- DERIVED from R200: where the host changes input bytes during the operation, as it likes, the operation still completes with
`DONE` = 1 and 16 letters in `OUT`; from the edge of acceptance until then the block is busy. It rests on log entry 4 (a host
that presents no more samples answers at once) and on log entry 8, the model's form of the letters R200 leaves open. -/
def Obligations.ChangedInputStillGivesSixteenLetters : Prop :=
  ∀ (s : State) (p : Pins) (rest : List Pins), s.ph = .idle → s.pins = p :: rest → p.start = true →
    (∀ q ∈ s.pins, q.rst = false) →
    ∃ (n : Nat) (t : State), 1 ≤ n ∧ n ≤ rest.length + 5 * p.len + 697 ∧ run n s = .next t ∧ t.DONE = true ∧ t.ph = .idle ∧
      (∀ k : Fin 16, isLetter t.OUT[k] = true) ∧
      (∀ m : Nat, 1 ≤ m → m < n → ∃ u : State, run m s = .next u ∧ u.busy = true ∧ u.DONE = false)

/-- DERIVED from R113 (a) and R204: two operations with the same length, the same input bytes and the same table give the same
result, whatever the two states held before and whatever else the two hosts do. -/
def Obligations.ResultDependsOnInputAndTableOnly : Prop :=
  ∀ (s s' : State) (p p' : Pins) (rest rest' : List Pins),
    s.ph = .idle → s.pins = p :: rest → p.start = true → Memory.wf s.IN = true →
    (∀ q ∈ (p :: rest).take (5 * p.len + 697), q.stable p.len s.readIN) → ReadsAnswered (5 * p.len + 697) s →
    s'.ph = .idle → s'.pins = p' :: rest' → p'.start = true → Memory.wf s'.IN = true →
    (∀ q ∈ (p' :: rest').take (5 * p'.len + 697), q.stable p'.len s'.readIN) → ReadsAnswered (5 * p'.len + 697) s' →
    s.cfg = s'.cfg → p.len = p'.len → (∀ j : Nat, j < p.len → s.readIN j = s'.readIN j) →
    ∃ t t' : State, run (5 * p.len + 697) s = .next t ∧ run (5 * p.len + 697) s' = .next t' ∧
      t.DONE = true ∧ t'.DONE = true ∧ t.OUT = t'.OUT ∧ t.result = t'.result

/-- R133: with an empty input no `MIX` is performed and no read is ever asked for, from acceptance to the end; from the
acceptance, and from each `REWR 14` but the last round's, the sequencer goes straight to `HSTEP 15`; 16 characters are
delivered. -/
def Obligations.EmptyInputReadsNothing : Prop :=
  ∀ (s : State) (p : Pins) (rest : List Pins), s.ph = .idle → s.pins = p :: rest → p.rst = false → p.start = true →
    p.len = 0 → (∀ q ∈ rest.take 696, q.rst = false) →
    (∀ n : Nat, n ≤ 697 → ∃ u : State, run n s = .next u ∧ u.inReq = false ∧ u.ph ≠ .mix) ∧
    (∀ (n : Nat) (u v : State), n < 697 → run n s = .next u → step u = .next v →
      n = 0 ∨ (u.ph = .rewr ∧ u.jw.val = 14 ∧ u.r.val < 4) → v.ph = .hstep ∧ v.i = 15 ∧ v.jw = 0) ∧
    (∃ t : State, run 697 s = .next t ∧ t.DONE = true ∧ ∀ k : Fin 16, isLetter t.OUT[k] = true)

/-- DERIVED (R134 (b)): two inputs with the same fold give the same result, whatever their lengths, under any table; so
appended bytes of value 0x00 never change it. -/
def Obligations.SameFoldSameResult : Prop :=
  (∀ (c : Config) (len len' : Nat) (input input' : Nat → Byte), foldInput len input = foldInput len' input' →
    encodeBytes c len input = encodeBytes c len' input') ∧
  (∀ (c : Config) (len extra : Nat) (input : Nat → Byte), (∀ j : Nat, len ≤ j → input j = 0x00#8) →
    encodeBytes c (len + extra) input = encodeBytes c len input)
end

