-- ==== Sys2Proof/Laws/Decode.lean ====
section
/-! SUPPORT. Small lemmas of the formats: the fields of a command word, the index operands, what each code decodes to. -/

namespace Sys2Proof

@[simp] theorem commandOp_commandWord (op : Bool) (len : Nat) : commandOp (commandWord op len) = op := by
  cases op <;> simp [commandOp, commandWord]

@[simp] theorem commandLen_commandWord (op : Bool) (len : Nat) : commandLen (commandWord op len) = len := by
  cases op
  · simp [commandLen, commandWord]
  · simp [commandLen, commandWord]; omega

/-- The two fields of a command word are all of it. -/
theorem commandWord_fields (w : Nat) : commandWord (commandOp w) (commandLen w) = w := by
  unfold commandWord commandOp commandLen
  rcases Nat.mod_two_eq_zero_or_one w with h | h
  · simp [h]; omega
  · simp [h]; omega

/-- What a presented command decodes to. -/
@[simp] theorem decode_command (op : Bool) (len : Nat) :
    decode (.cmd (commandWord op len)) = .ok (if op then .encode len else .nop) := by
  simp [decode, decodeCommand]

@[simp] theorem decodeIndex_val (n : Fin 16) : decodeIndex n.val = .ok n := by
  simp [decodeIndex, n.isLt]

theorem decodeRewriteIndex_even {n : Fin 16} (h : n.val % 2 = 0) : decodeRewriteIndex n.val = .ok n := by
  simp [decodeRewriteIndex, h]

theorem decodeRewriteIndex_odd {n : Fin 16} (h : n.val % 2 = 1) :
    decodeRewriteIndex n.val = .error .rewriteIndexOdd := by
  simp [decodeRewriteIndex, h]

@[simp] theorem decode_uop_idle (x : Nat) : decode (.uop 0b000#3 x) = .ok .idle := rfl

@[simp] theorem decode_uop_mix (x : Nat) : decode (.uop 0b001#3 x) = .ok (.mix x) := rfl

@[simp] theorem decode_uop_hstep (n : Fin 16) : decode (.uop 0b010#3 n.val) = .ok (.hstep n) := by
  have : decode (.uop 0b010#3 n.val) = (decodeIndex n.val).map .hstep := rfl
  rw [this, decodeIndex_val]
  rfl

theorem decode_uop_rewr {n : Fin 16} (h : n.val % 2 = 0) : decode (.uop 0b011#3 n.val) = .ok (.rewr n) := by
  have : decode (.uop 0b011#3 n.val) = (decodeRewriteIndex n.val).map .rewr := rfl
  rw [this, decodeRewriteIndex_even h]
  rfl

theorem decode_uop_rewr_odd {n : Fin 16} (h : n.val % 2 = 1) :
    decode (.uop 0b011#3 n.val) = .error .rewriteIndexOdd := by
  have : decode (.uop 0b011#3 n.val) = (decodeRewriteIndex n.val).map .rewr := rfl
  rw [this, decodeRewriteIndex_odd h]
  rfl

@[simp] theorem decode_uop_map (n : Fin 16) : decode (.uop 0b100#3 n.val) = .ok (.map n) := by
  have : decode (.uop 0b100#3 n.val) = (decodeIndex n.val).map .map := rfl
  rw [this, decodeIndex_val]
  rfl

end Sys2Proof
end

