-- ==== Sys2Proof/Laws/Memory.lean ====
section
/-! SUPPORT. The laws of the input space: a read after a write, the canonical form kept by every operation, and equal
memories for equal contents. -/

namespace Sys2Proof.Machine

/-- Every listed index of `m` is above `b`. -/
def Memory.allAbove (b : Nat) (m : Memory) : Prop := ∀ c ∈ m, b < c.1

theorem Memory.wf_cons_iff (a : Nat) (v : Byte) (m : Memory) :
    Memory.wf ((a, v) :: m) = true ↔ v ≠ Memory.unlisted ∧ Memory.allAbove a m ∧ Memory.wf m = true := by
  simp [Memory.wf, Memory.allAbove, and_assoc]

/-- An index below every listed one reads as unlisted. -/
theorem Memory.read_eq_unlisted_of_allAbove {m : Memory} {b j : Nat} (h : Memory.allAbove b m) (hj : j ≤ b) :
    Memory.read m j = Memory.unlisted := by
  induction m with
  | nil => rfl
  | cons c m ih =>
    obtain ⟨a, v⟩ := c
    have ha : b < a := h (a, v) (by simp)
    have hne : j ≠ a := by omega
    simpa [Memory.read, hne] using ih (fun c hc => h c (by simp [hc]))

theorem Memory.read_consCell {m : Memory} {b : Nat} {v : Byte} (h : Memory.allAbove b m) (j : Nat) :
    Memory.read (Memory.cons b v m) j = if j = b then v else Memory.read m j := by
  unfold Memory.cons
  split
  next hv =>
    split
    next hj => rw [hv, Memory.read_eq_unlisted_of_allAbove h (le_of_eq hj)]
    next => rfl
  next => rfl

/-- What a store leaves at every index. -/
theorem Memory.read_write {m : Memory} (hm : Memory.wf m = true) (a : Nat) (v : Byte) (j : Nat) :
    Memory.read (Memory.write m a v) j = if j = a then v else Memory.read m j := by
  induction m with
  | nil => exact Memory.read_consCell (fun c hc => by simp at hc) j
  | cons c m ih =>
    obtain ⟨b, w⟩ := c
    obtain ⟨-, hb, hwf⟩ := (Memory.wf_cons_iff b w m).1 hm
    unfold Memory.write
    split
    next hab =>
      refine Memory.read_consCell (fun c hc => ?_) j
      rcases List.mem_cons.1 hc with rfl | hc
      · exact hab
      · exact lt_trans hab (hb c hc)
    next hab =>
      split
      next h =>
        subst h
        rw [Memory.read_consCell hb]
        by_cases hj : j = a <;> simp [Memory.read, hj]
      next h =>
        simp only [Memory.read, ih hwf]
        by_cases hj : j = b
        · have : j ≠ a := by omega
          simp [hj, show b ≠ a by omega]
        · simp [hj]

theorem Memory.allAbove_cons {m : Memory} {b a : Nat} {v : Byte} (h : Memory.allAbove b m) (ha : b < a) :
    Memory.allAbove b (Memory.cons a v m) := by
  unfold Memory.cons
  split
  · exact h
  · intro c hc
    rcases List.mem_cons.1 hc with rfl | hc
    · exact ha
    · exact h c hc

theorem Memory.wf_consCell {m : Memory} {a : Nat} {v : Byte} (h : Memory.allAbove a m) (hm : Memory.wf m = true) :
    Memory.wf (Memory.cons a v m) = true := by
  unfold Memory.cons
  split
  · exact hm
  · next hv => exact (Memory.wf_cons_iff a v m).2 ⟨hv, h, hm⟩

theorem Memory.allAbove_write {m : Memory} {b a : Nat} {v : Byte} (h : Memory.allAbove b m) (ha : b < a) :
    Memory.allAbove b (Memory.write m a v) := by
  induction m with
  | nil => exact Memory.allAbove_cons h ha
  | cons c m ih =>
    obtain ⟨d, w⟩ := c
    have hm : Memory.allAbove b m := fun c hc => h c (by simp [hc])
    unfold Memory.write
    split
    · exact Memory.allAbove_cons h ha
    · split
      · exact Memory.allAbove_cons hm ha
      · intro c hc
        rcases List.mem_cons.1 hc with rfl | hc
        · exact h (d, w) (by simp)
        · exact ih hm c hc

/-- A store keeps the canonical form. -/
theorem Memory.wf_write {m : Memory} (hm : Memory.wf m = true) (a : Nat) (v : Byte) :
    Memory.wf (Memory.write m a v) = true := by
  induction m with
  | nil => exact Memory.wf_consCell (fun c hc => by simp at hc) rfl
  | cons c m ih =>
    obtain ⟨b, w⟩ := c
    obtain ⟨hw, hb, hwf⟩ := (Memory.wf_cons_iff b w m).1 hm
    unfold Memory.write
    split
    next hab =>
      refine Memory.wf_consCell (fun c hc => ?_) hm
      rcases List.mem_cons.1 hc with rfl | hc
      · exact hab
      · exact lt_trans hab (hb c hc)
    next hab =>
      split
      next h => subst h; exact Memory.wf_consCell hb hwf
      next h => exact (Memory.wf_cons_iff b w _).2 ⟨hw, Memory.allAbove_write hb (by omega), ih hwf⟩

@[simp] theorem Memory.writeAll_nil (m : Memory) : Memory.writeAll m [] = m := rfl

@[simp] theorem Memory.writeAll_cons (m : Memory) (c : Host.Cell) (cs : List Host.Cell) :
    Memory.writeAll m (c :: cs) = Memory.writeAll (Memory.write m c.1 c.2) cs := rfl

/-- Stores keep the canonical form. -/
theorem Memory.wf_writeAll {m : Memory} (hm : Memory.wf m = true) (cs : List Host.Cell) :
    Memory.wf (Memory.writeAll m cs) = true := by
  induction cs generalizing m with
  | nil => exact hm
  | cons c cs ih => exact ih (Memory.wf_write hm c.1 c.2)

/-- An index where every cell stored says what it reads already still reads so: an index no cell names, among others. -/
theorem Memory.read_writeAll_of_agree {m : Memory} (hm : Memory.wf m = true) {cs : List Host.Cell} {j : Nat}
    (h : ∀ c ∈ cs, c.1 = j → c.2 = Memory.read m j) : Memory.read (Memory.writeAll m cs) j = Memory.read m j := by
  induction cs generalizing m with
  | nil => rfl
  | cons c cs ih =>
    have hc : Memory.read (Memory.write m c.1 c.2) j = Memory.read m j := by
      rw [Memory.read_write hm]
      split
      next hj => exact h c (by simp) hj.symm
      next => rfl
    rw [Memory.writeAll_cons, ih (Memory.wf_write hm c.1 c.2), hc]
    intro d hd hdj
    rw [hc]
    exact h d (List.mem_cons_of_mem c hd) hdj

/-- The last cell of an index is what the index reads. -/
theorem Memory.read_writeAll_last {m : Memory} (hm : Memory.wf m = true) (cs ds : List Host.Cell) {a : Nat} {v : Byte}
    (h : ∀ c ∈ ds, c.1 ≠ a) : Memory.read (Memory.writeAll m (cs ++ (a, v) :: ds)) a = v := by
  induction cs generalizing m with
  | nil =>
    have hw := Memory.wf_write hm a v
    rw [List.nil_append, Memory.writeAll_cons, Memory.read_writeAll_of_agree hw fun c hc hca => absurd hca (h c hc),
      Memory.read_write hm, if_pos rfl]
  | cons c cs ih => exact ih (Memory.wf_write hm c.1 c.2)

theorem Memory.read_head (a : Nat) (v : Byte) (m : Memory) : Memory.read ((a, v) :: m) a = v := by
  simp [Memory.read]

/-- Two memories in canonical form with the same content are the same list. -/
theorem Memory.ext_of_read {m n : Memory} (hm : Memory.wf m = true) (hn : Memory.wf n = true)
    (h : ∀ j, Memory.read m j = Memory.read n j) : m = n := by
  induction m generalizing n with
  | nil =>
    cases n with
    | nil => rfl
    | cons c n =>
      obtain ⟨a, v⟩ := c
      have := h a
      rw [Memory.read_head] at this
      exact absurd this.symm ((Memory.wf_cons_iff a v n).1 hn).1
  | cons c m ih =>
    obtain ⟨a, v⟩ := c
    obtain ⟨hv, ha, hwf⟩ := (Memory.wf_cons_iff a v m).1 hm
    cases n with
    | nil =>
      have := h a
      rw [Memory.read_head] at this
      exact absurd this hv
    | cons d n =>
      obtain ⟨b, w⟩ := d
      obtain ⟨hw, hb, hwf'⟩ := (Memory.wf_cons_iff b w n).1 hn
      have hab : a = b := by
        rcases Nat.lt_trichotomy a b with hlt | heq | hgt
        · have := h a
          rw [Memory.read_head, Memory.read_eq_unlisted_of_allAbove (b := a) (fun c hc => ?_) le_rfl] at this
          · exact absurd this hv
          · rcases List.mem_cons.1 hc with rfl | hc
            · exact hlt
            · exact lt_trans hlt (hb c hc)
        · exact heq
        · have := h b
          rw [Memory.read_head, Memory.read_eq_unlisted_of_allAbove (b := b) (fun c hc => ?_) le_rfl] at this
          · exact absurd this.symm hw
          · rcases List.mem_cons.1 hc with rfl | hc
            · exact hgt
            · exact lt_trans hgt (ha c hc)
      subst hab
      have hvw : v = w := by simpa [Memory.read_head] using h a
      subst hvw
      congr 1
      refine ih hwf hwf' fun j => ?_
      by_cases hj : j = a
      · rw [Memory.read_eq_unlisted_of_allAbove ha (le_of_eq hj), Memory.read_eq_unlisted_of_allAbove hb (le_of_eq hj)]
      · simpa [Memory.read, hj] using h j

end Sys2Proof.Machine
end

