-- ==== Sys2Proof/Laws/State.lean ====
section
/-! SUPPORT. What each named update of the state writes and leaves: one lemma per field, so that no later proof unfolds a
record update. -/

namespace Sys2Proof.Machine

section
variable (s : State) (n : Fin 16) (v : Byte)
@[simp] theorem State.writeS_S : (s.writeS n v).S = s.S.set n v := rfl
@[simp] theorem State.writeS_H : (s.writeS n v).H = s.H := rfl
@[simp] theorem State.writeS_OUT : (s.writeS n v).OUT = s.OUT := rfl
@[simp] theorem State.writeS_LEN : (s.writeS n v).LEN = s.LEN := rfl
@[simp] theorem State.writeS_ph : (s.writeS n v).ph = s.ph := rfl
@[simp] theorem State.writeS_r : (s.writeS n v).r = s.r := rfl
@[simp] theorem State.writeS_jm : (s.writeS n v).jm = s.jm := rfl
@[simp] theorem State.writeS_jw : (s.writeS n v).jw = s.jw := rfl
@[simp] theorem State.writeS_i : (s.writeS n v).i = s.i := rfl
@[simp] theorem State.writeS_k : (s.writeS n v).k = s.k := rfl
@[simp] theorem State.writeS_DONE : (s.writeS n v).DONE = s.DONE := rfl
@[simp] theorem State.writeS_cfg : (s.writeS n v).cfg = s.cfg := rfl
@[simp] theorem State.writeS_IN : (s.writeS n v).IN = s.IN := rfl
@[simp] theorem State.writeS_pins : (s.writeS n v).pins = s.pins := rfl
@[simp] theorem State.writeS_inputChanged : (s.writeS n v).inputChanged = s.inputChanged := rfl
@[simp] theorem State.writeS_fresh : (s.writeS n v).fresh = s.fresh := rfl
end

section
variable (s : State) (v : HashWord)
@[simp] theorem State.writeH_S : (s.writeH v).S = s.S := rfl
@[simp] theorem State.writeH_H : (s.writeH v).H = v := rfl
@[simp] theorem State.writeH_OUT : (s.writeH v).OUT = s.OUT := rfl
@[simp] theorem State.writeH_LEN : (s.writeH v).LEN = s.LEN := rfl
@[simp] theorem State.writeH_ph : (s.writeH v).ph = s.ph := rfl
@[simp] theorem State.writeH_r : (s.writeH v).r = s.r := rfl
@[simp] theorem State.writeH_jm : (s.writeH v).jm = s.jm := rfl
@[simp] theorem State.writeH_jw : (s.writeH v).jw = s.jw := rfl
@[simp] theorem State.writeH_i : (s.writeH v).i = s.i := rfl
@[simp] theorem State.writeH_k : (s.writeH v).k = s.k := rfl
@[simp] theorem State.writeH_DONE : (s.writeH v).DONE = s.DONE := rfl
@[simp] theorem State.writeH_cfg : (s.writeH v).cfg = s.cfg := rfl
@[simp] theorem State.writeH_IN : (s.writeH v).IN = s.IN := rfl
@[simp] theorem State.writeH_pins : (s.writeH v).pins = s.pins := rfl
@[simp] theorem State.writeH_inputChanged : (s.writeH v).inputChanged = s.inputChanged := rfl
@[simp] theorem State.writeH_fresh : (s.writeH v).fresh = s.fresh := rfl
end

section
variable (s : State) (n : Fin 16) (v : Byte)
@[simp] theorem State.writeOUT_S : (s.writeOUT n v).S = s.S := rfl
@[simp] theorem State.writeOUT_H : (s.writeOUT n v).H = s.H := rfl
@[simp] theorem State.writeOUT_OUT : (s.writeOUT n v).OUT = s.OUT.set n v := rfl
@[simp] theorem State.writeOUT_LEN : (s.writeOUT n v).LEN = s.LEN := rfl
@[simp] theorem State.writeOUT_ph : (s.writeOUT n v).ph = s.ph := rfl
@[simp] theorem State.writeOUT_r : (s.writeOUT n v).r = s.r := rfl
@[simp] theorem State.writeOUT_jm : (s.writeOUT n v).jm = s.jm := rfl
@[simp] theorem State.writeOUT_jw : (s.writeOUT n v).jw = s.jw := rfl
@[simp] theorem State.writeOUT_i : (s.writeOUT n v).i = s.i := rfl
@[simp] theorem State.writeOUT_k : (s.writeOUT n v).k = s.k := rfl
@[simp] theorem State.writeOUT_DONE : (s.writeOUT n v).DONE = s.DONE := rfl
@[simp] theorem State.writeOUT_cfg : (s.writeOUT n v).cfg = s.cfg := rfl
@[simp] theorem State.writeOUT_IN : (s.writeOUT n v).IN = s.IN := rfl
@[simp] theorem State.writeOUT_pins : (s.writeOUT n v).pins = s.pins := rfl
@[simp] theorem State.writeOUT_inputChanged : (s.writeOUT n v).inputChanged = s.inputChanged := rfl
@[simp] theorem State.writeOUT_fresh : (s.writeOUT n v).fresh = s.fresh := rfl
end

section
variable (s : State)
@[simp] theorem State.toMixPass_S : s.toMixPass.S = s.S := rfl
@[simp] theorem State.toMixPass_H : s.toMixPass.H = s.H := rfl
@[simp] theorem State.toMixPass_OUT : s.toMixPass.OUT = s.OUT := rfl
@[simp] theorem State.toMixPass_LEN : s.toMixPass.LEN = s.LEN := rfl
@[simp] theorem State.toMixPass_ph : s.toMixPass.ph = .mix := rfl
@[simp] theorem State.toMixPass_r : s.toMixPass.r = s.r := rfl
@[simp] theorem State.toMixPass_jm : s.toMixPass.jm = 0 := rfl
@[simp] theorem State.toMixPass_jw : s.toMixPass.jw = s.jw := rfl
@[simp] theorem State.toMixPass_i : s.toMixPass.i = s.i := rfl
@[simp] theorem State.toMixPass_k : s.toMixPass.k = s.k := rfl
@[simp] theorem State.toMixPass_DONE : s.toMixPass.DONE = s.DONE := rfl
@[simp] theorem State.toMixPass_cfg : s.toMixPass.cfg = s.cfg := rfl
@[simp] theorem State.toMixPass_IN : s.toMixPass.IN = s.IN := rfl
@[simp] theorem State.toMixPass_pins : s.toMixPass.pins = s.pins := rfl
@[simp] theorem State.toMixPass_inputChanged : s.toMixPass.inputChanged = s.inputChanged := rfl
@[simp] theorem State.toMixPass_fresh : s.toMixPass.fresh = s.fresh := rfl
end

section
variable (s : State)
@[simp] theorem State.toHashPass_S : s.toHashPass.S = s.S := rfl
@[simp] theorem State.toHashPass_H : s.toHashPass.H = s.H := rfl
@[simp] theorem State.toHashPass_OUT : s.toHashPass.OUT = s.OUT := rfl
@[simp] theorem State.toHashPass_LEN : s.toHashPass.LEN = s.LEN := rfl
@[simp] theorem State.toHashPass_ph : s.toHashPass.ph = .hstep := rfl
@[simp] theorem State.toHashPass_r : s.toHashPass.r = s.r := rfl
@[simp] theorem State.toHashPass_jm : s.toHashPass.jm = s.jm := rfl
@[simp] theorem State.toHashPass_jw : s.toHashPass.jw = 0 := rfl
@[simp] theorem State.toHashPass_i : s.toHashPass.i = 15 := rfl
@[simp] theorem State.toHashPass_k : s.toHashPass.k = s.k := rfl
@[simp] theorem State.toHashPass_DONE : s.toHashPass.DONE = s.DONE := rfl
@[simp] theorem State.toHashPass_cfg : s.toHashPass.cfg = s.cfg := rfl
@[simp] theorem State.toHashPass_IN : s.toHashPass.IN = s.IN := rfl
@[simp] theorem State.toHashPass_pins : s.toHashPass.pins = s.pins := rfl
@[simp] theorem State.toHashPass_inputChanged : s.toHashPass.inputChanged = s.inputChanged := rfl
@[simp] theorem State.toHashPass_fresh : s.toHashPass.fresh = s.fresh := rfl
end

section
variable (s : State) (len : Nat)
@[simp] theorem State.initialise_S : (s.initialise len).S = Vector.replicate 16 Config.scratchInit := rfl
@[simp] theorem State.initialise_H : (s.initialise len).H = Config.hashInit := rfl
@[simp] theorem State.initialise_OUT : (s.initialise len).OUT = s.OUT := rfl
@[simp] theorem State.initialise_LEN : (s.initialise len).LEN = len := rfl
@[simp] theorem State.initialise_ph : (s.initialise len).ph = s.ph := rfl
@[simp] theorem State.initialise_r : (s.initialise len).r = 0 := rfl
@[simp] theorem State.initialise_jm : (s.initialise len).jm = s.jm := rfl
@[simp] theorem State.initialise_jw : (s.initialise len).jw = s.jw := rfl
@[simp] theorem State.initialise_i : (s.initialise len).i = s.i := rfl
@[simp] theorem State.initialise_k : (s.initialise len).k = s.k := rfl
@[simp] theorem State.initialise_DONE : (s.initialise len).DONE = s.DONE := rfl
@[simp] theorem State.initialise_cfg : (s.initialise len).cfg = s.cfg := rfl
@[simp] theorem State.initialise_IN : (s.initialise len).IN = s.IN := rfl
@[simp] theorem State.initialise_pins : (s.initialise len).pins = s.pins := rfl
@[simp] theorem State.initialise_inputChanged : (s.initialise len).inputChanged = false := rfl
@[simp] theorem State.initialise_fresh : (s.initialise len).fresh = s.fresh := rfl
end

section
variable (s : State) (v : Nat)
@[simp] theorem State.setJm_S : (s.setJm v).S = s.S := rfl
@[simp] theorem State.setJm_H : (s.setJm v).H = s.H := rfl
@[simp] theorem State.setJm_OUT : (s.setJm v).OUT = s.OUT := rfl
@[simp] theorem State.setJm_LEN : (s.setJm v).LEN = s.LEN := rfl
@[simp] theorem State.setJm_ph : (s.setJm v).ph = s.ph := rfl
@[simp] theorem State.setJm_r : (s.setJm v).r = s.r := rfl
@[simp] theorem State.setJm_jm : (s.setJm v).jm = v := rfl
@[simp] theorem State.setJm_jw : (s.setJm v).jw = s.jw := rfl
@[simp] theorem State.setJm_i : (s.setJm v).i = s.i := rfl
@[simp] theorem State.setJm_k : (s.setJm v).k = s.k := rfl
@[simp] theorem State.setJm_DONE : (s.setJm v).DONE = s.DONE := rfl
@[simp] theorem State.setJm_cfg : (s.setJm v).cfg = s.cfg := rfl
@[simp] theorem State.setJm_IN : (s.setJm v).IN = s.IN := rfl
@[simp] theorem State.setJm_pins : (s.setJm v).pins = s.pins := rfl
@[simp] theorem State.setJm_inputChanged : (s.setJm v).inputChanged = s.inputChanged := rfl
@[simp] theorem State.setJm_fresh : (s.setJm v).fresh = s.fresh := rfl
end

section
variable (s : State) (v : Fin 16)
@[simp] theorem State.setI_S : (s.setI v).S = s.S := rfl
@[simp] theorem State.setI_H : (s.setI v).H = s.H := rfl
@[simp] theorem State.setI_OUT : (s.setI v).OUT = s.OUT := rfl
@[simp] theorem State.setI_LEN : (s.setI v).LEN = s.LEN := rfl
@[simp] theorem State.setI_ph : (s.setI v).ph = s.ph := rfl
@[simp] theorem State.setI_r : (s.setI v).r = s.r := rfl
@[simp] theorem State.setI_jm : (s.setI v).jm = s.jm := rfl
@[simp] theorem State.setI_jw : (s.setI v).jw = s.jw := rfl
@[simp] theorem State.setI_i : (s.setI v).i = v := rfl
@[simp] theorem State.setI_k : (s.setI v).k = s.k := rfl
@[simp] theorem State.setI_DONE : (s.setI v).DONE = s.DONE := rfl
@[simp] theorem State.setI_cfg : (s.setI v).cfg = s.cfg := rfl
@[simp] theorem State.setI_IN : (s.setI v).IN = s.IN := rfl
@[simp] theorem State.setI_pins : (s.setI v).pins = s.pins := rfl
@[simp] theorem State.setI_inputChanged : (s.setI v).inputChanged = s.inputChanged := rfl
@[simp] theorem State.setI_fresh : (s.setI v).fresh = s.fresh := rfl
end

section
variable (s : State)
@[simp] theorem State.toRewr_S : s.toRewr.S = s.S := rfl
@[simp] theorem State.toRewr_H : s.toRewr.H = s.H := rfl
@[simp] theorem State.toRewr_OUT : s.toRewr.OUT = s.OUT := rfl
@[simp] theorem State.toRewr_LEN : s.toRewr.LEN = s.LEN := rfl
@[simp] theorem State.toRewr_ph : s.toRewr.ph = .rewr := rfl
@[simp] theorem State.toRewr_r : s.toRewr.r = s.r := rfl
@[simp] theorem State.toRewr_jm : s.toRewr.jm = s.jm := rfl
@[simp] theorem State.toRewr_jw : s.toRewr.jw = s.jw := rfl
@[simp] theorem State.toRewr_i : s.toRewr.i = s.i := rfl
@[simp] theorem State.toRewr_k : s.toRewr.k = s.k := rfl
@[simp] theorem State.toRewr_DONE : s.toRewr.DONE = s.DONE := rfl
@[simp] theorem State.toRewr_cfg : s.toRewr.cfg = s.cfg := rfl
@[simp] theorem State.toRewr_IN : s.toRewr.IN = s.IN := rfl
@[simp] theorem State.toRewr_pins : s.toRewr.pins = s.pins := rfl
@[simp] theorem State.toRewr_inputChanged : s.toRewr.inputChanged = s.inputChanged := rfl
@[simp] theorem State.toRewr_fresh : s.toRewr.fresh = s.fresh := rfl
end

section
variable (s : State) (v : Fin 16)
@[simp] theorem State.toNextHash_S : (s.toNextHash v).S = s.S := rfl
@[simp] theorem State.toNextHash_H : (s.toNextHash v).H = s.H := rfl
@[simp] theorem State.toNextHash_OUT : (s.toNextHash v).OUT = s.OUT := rfl
@[simp] theorem State.toNextHash_LEN : (s.toNextHash v).LEN = s.LEN := rfl
@[simp] theorem State.toNextHash_ph : (s.toNextHash v).ph = .hstep := rfl
@[simp] theorem State.toNextHash_r : (s.toNextHash v).r = s.r := rfl
@[simp] theorem State.toNextHash_jm : (s.toNextHash v).jm = s.jm := rfl
@[simp] theorem State.toNextHash_jw : (s.toNextHash v).jw = v := rfl
@[simp] theorem State.toNextHash_i : (s.toNextHash v).i = 15 := rfl
@[simp] theorem State.toNextHash_k : (s.toNextHash v).k = s.k := rfl
@[simp] theorem State.toNextHash_DONE : (s.toNextHash v).DONE = s.DONE := rfl
@[simp] theorem State.toNextHash_cfg : (s.toNextHash v).cfg = s.cfg := rfl
@[simp] theorem State.toNextHash_IN : (s.toNextHash v).IN = s.IN := rfl
@[simp] theorem State.toNextHash_pins : (s.toNextHash v).pins = s.pins := rfl
@[simp] theorem State.toNextHash_inputChanged : (s.toNextHash v).inputChanged = s.inputChanged := rfl
@[simp] theorem State.toNextHash_fresh : (s.toNextHash v).fresh = s.fresh := rfl
end

section
variable (s : State) (v : Fin 8)
@[simp] theorem State.setR_S : (s.setR v).S = s.S := rfl
@[simp] theorem State.setR_H : (s.setR v).H = s.H := rfl
@[simp] theorem State.setR_OUT : (s.setR v).OUT = s.OUT := rfl
@[simp] theorem State.setR_LEN : (s.setR v).LEN = s.LEN := rfl
@[simp] theorem State.setR_ph : (s.setR v).ph = s.ph := rfl
@[simp] theorem State.setR_r : (s.setR v).r = v := rfl
@[simp] theorem State.setR_jm : (s.setR v).jm = s.jm := rfl
@[simp] theorem State.setR_jw : (s.setR v).jw = s.jw := rfl
@[simp] theorem State.setR_i : (s.setR v).i = s.i := rfl
@[simp] theorem State.setR_k : (s.setR v).k = s.k := rfl
@[simp] theorem State.setR_DONE : (s.setR v).DONE = s.DONE := rfl
@[simp] theorem State.setR_cfg : (s.setR v).cfg = s.cfg := rfl
@[simp] theorem State.setR_IN : (s.setR v).IN = s.IN := rfl
@[simp] theorem State.setR_pins : (s.setR v).pins = s.pins := rfl
@[simp] theorem State.setR_inputChanged : (s.setR v).inputChanged = s.inputChanged := rfl
@[simp] theorem State.setR_fresh : (s.setR v).fresh = s.fresh := rfl
end

section
variable (s : State)
@[simp] theorem State.toMapPass_S : s.toMapPass.S = s.S := rfl
@[simp] theorem State.toMapPass_H : s.toMapPass.H = s.H := rfl
@[simp] theorem State.toMapPass_OUT : s.toMapPass.OUT = s.OUT := rfl
@[simp] theorem State.toMapPass_LEN : s.toMapPass.LEN = s.LEN := rfl
@[simp] theorem State.toMapPass_ph : s.toMapPass.ph = .map := rfl
@[simp] theorem State.toMapPass_r : s.toMapPass.r = s.r := rfl
@[simp] theorem State.toMapPass_jm : s.toMapPass.jm = s.jm := rfl
@[simp] theorem State.toMapPass_jw : s.toMapPass.jw = s.jw := rfl
@[simp] theorem State.toMapPass_i : s.toMapPass.i = s.i := rfl
@[simp] theorem State.toMapPass_k : s.toMapPass.k = 0 := rfl
@[simp] theorem State.toMapPass_DONE : s.toMapPass.DONE = s.DONE := rfl
@[simp] theorem State.toMapPass_cfg : s.toMapPass.cfg = s.cfg := rfl
@[simp] theorem State.toMapPass_IN : s.toMapPass.IN = s.IN := rfl
@[simp] theorem State.toMapPass_pins : s.toMapPass.pins = s.pins := rfl
@[simp] theorem State.toMapPass_inputChanged : s.toMapPass.inputChanged = s.inputChanged := rfl
@[simp] theorem State.toMapPass_fresh : s.toMapPass.fresh = s.fresh := rfl
end

section
variable (s : State) (v : Fin 16)
@[simp] theorem State.setK_S : (s.setK v).S = s.S := rfl
@[simp] theorem State.setK_H : (s.setK v).H = s.H := rfl
@[simp] theorem State.setK_OUT : (s.setK v).OUT = s.OUT := rfl
@[simp] theorem State.setK_LEN : (s.setK v).LEN = s.LEN := rfl
@[simp] theorem State.setK_ph : (s.setK v).ph = s.ph := rfl
@[simp] theorem State.setK_r : (s.setK v).r = s.r := rfl
@[simp] theorem State.setK_jm : (s.setK v).jm = s.jm := rfl
@[simp] theorem State.setK_jw : (s.setK v).jw = s.jw := rfl
@[simp] theorem State.setK_i : (s.setK v).i = s.i := rfl
@[simp] theorem State.setK_k : (s.setK v).k = v := rfl
@[simp] theorem State.setK_DONE : (s.setK v).DONE = s.DONE := rfl
@[simp] theorem State.setK_cfg : (s.setK v).cfg = s.cfg := rfl
@[simp] theorem State.setK_IN : (s.setK v).IN = s.IN := rfl
@[simp] theorem State.setK_pins : (s.setK v).pins = s.pins := rfl
@[simp] theorem State.setK_inputChanged : (s.setK v).inputChanged = s.inputChanged := rfl
@[simp] theorem State.setK_fresh : (s.setK v).fresh = s.fresh := rfl
end

section
variable (s : State)
@[simp] theorem State.toIdle_S : s.toIdle.S = s.S := rfl
@[simp] theorem State.toIdle_H : s.toIdle.H = s.H := rfl
@[simp] theorem State.toIdle_OUT : s.toIdle.OUT = s.OUT := rfl
@[simp] theorem State.toIdle_LEN : s.toIdle.LEN = s.LEN := rfl
@[simp] theorem State.toIdle_ph : s.toIdle.ph = .idle := rfl
@[simp] theorem State.toIdle_r : s.toIdle.r = s.r := rfl
@[simp] theorem State.toIdle_jm : s.toIdle.jm = s.jm := rfl
@[simp] theorem State.toIdle_jw : s.toIdle.jw = s.jw := rfl
@[simp] theorem State.toIdle_i : s.toIdle.i = s.i := rfl
@[simp] theorem State.toIdle_k : s.toIdle.k = s.k := rfl
@[simp] theorem State.toIdle_DONE : s.toIdle.DONE = s.DONE := rfl
@[simp] theorem State.toIdle_cfg : s.toIdle.cfg = s.cfg := rfl
@[simp] theorem State.toIdle_IN : s.toIdle.IN = s.IN := rfl
@[simp] theorem State.toIdle_pins : s.toIdle.pins = s.pins := rfl
@[simp] theorem State.toIdle_inputChanged : s.toIdle.inputChanged = s.inputChanged := rfl
@[simp] theorem State.toIdle_fresh : s.toIdle.fresh = s.fresh := rfl
end

section
variable (s : State)
@[simp] theorem State.clearDone_S : s.clearDone.S = s.S := rfl
@[simp] theorem State.clearDone_H : s.clearDone.H = s.H := rfl
@[simp] theorem State.clearDone_OUT : s.clearDone.OUT = s.OUT := rfl
@[simp] theorem State.clearDone_LEN : s.clearDone.LEN = s.LEN := rfl
@[simp] theorem State.clearDone_ph : s.clearDone.ph = s.ph := rfl
@[simp] theorem State.clearDone_r : s.clearDone.r = s.r := rfl
@[simp] theorem State.clearDone_jm : s.clearDone.jm = s.jm := rfl
@[simp] theorem State.clearDone_jw : s.clearDone.jw = s.jw := rfl
@[simp] theorem State.clearDone_i : s.clearDone.i = s.i := rfl
@[simp] theorem State.clearDone_k : s.clearDone.k = s.k := rfl
@[simp] theorem State.clearDone_DONE : s.clearDone.DONE = false := rfl
@[simp] theorem State.clearDone_cfg : s.clearDone.cfg = s.cfg := rfl
@[simp] theorem State.clearDone_IN : s.clearDone.IN = s.IN := rfl
@[simp] theorem State.clearDone_pins : s.clearDone.pins = s.pins := rfl
@[simp] theorem State.clearDone_inputChanged : s.clearDone.inputChanged = s.inputChanged := rfl
@[simp] theorem State.clearDone_fresh : s.clearDone.fresh = s.fresh := rfl
end

section
variable (s : State)
@[simp] theorem State.setDone_S : s.setDone.S = s.S := rfl
@[simp] theorem State.setDone_H : s.setDone.H = s.H := rfl
@[simp] theorem State.setDone_OUT : s.setDone.OUT = s.OUT := rfl
@[simp] theorem State.setDone_LEN : s.setDone.LEN = s.LEN := rfl
@[simp] theorem State.setDone_ph : s.setDone.ph = s.ph := rfl
@[simp] theorem State.setDone_r : s.setDone.r = s.r := rfl
@[simp] theorem State.setDone_jm : s.setDone.jm = s.jm := rfl
@[simp] theorem State.setDone_jw : s.setDone.jw = s.jw := rfl
@[simp] theorem State.setDone_i : s.setDone.i = s.i := rfl
@[simp] theorem State.setDone_k : s.setDone.k = s.k := rfl
@[simp] theorem State.setDone_DONE : s.setDone.DONE = true := rfl
@[simp] theorem State.setDone_cfg : s.setDone.cfg = s.cfg := rfl
@[simp] theorem State.setDone_IN : s.setDone.IN = s.IN := rfl
@[simp] theorem State.setDone_pins : s.setDone.pins = s.pins := rfl
@[simp] theorem State.setDone_inputChanged : s.setDone.inputChanged = s.inputChanged := rfl
@[simp] theorem State.setDone_fresh : s.setDone.fresh = s.fresh := rfl
end

section
variable (s : State)
@[simp] theorem State.pastEdge_S : s.pastEdge.S = s.S := rfl
@[simp] theorem State.pastEdge_H : s.pastEdge.H = s.H := rfl
@[simp] theorem State.pastEdge_OUT : s.pastEdge.OUT = s.OUT := rfl
@[simp] theorem State.pastEdge_LEN : s.pastEdge.LEN = s.LEN := rfl
@[simp] theorem State.pastEdge_ph : s.pastEdge.ph = s.ph := rfl
@[simp] theorem State.pastEdge_r : s.pastEdge.r = s.r := rfl
@[simp] theorem State.pastEdge_jm : s.pastEdge.jm = s.jm := rfl
@[simp] theorem State.pastEdge_jw : s.pastEdge.jw = s.jw := rfl
@[simp] theorem State.pastEdge_i : s.pastEdge.i = s.i := rfl
@[simp] theorem State.pastEdge_k : s.pastEdge.k = s.k := rfl
@[simp] theorem State.pastEdge_DONE : s.pastEdge.DONE = s.DONE := rfl
@[simp] theorem State.pastEdge_cfg : s.pastEdge.cfg = s.cfg := rfl
@[simp] theorem State.pastEdge_IN : s.pastEdge.IN = s.IN := rfl
@[simp] theorem State.pastEdge_pins : s.pastEdge.pins = s.pins.tail := rfl
@[simp] theorem State.pastEdge_inputChanged : s.pastEdge.inputChanged = s.inputChanged := rfl
@[simp] theorem State.pastEdge_fresh : s.pastEdge.fresh = s.fresh := rfl
end

section
variable (s : State)
@[simp] theorem State.resetBlock_S : s.resetBlock.S = freeBytes s.fresh := rfl
@[simp] theorem State.resetBlock_H : s.resetBlock.H = Config.freeHash s.fresh := rfl
@[simp] theorem State.resetBlock_OUT : s.resetBlock.OUT = freeBytes (s.fresh + 16) := rfl
@[simp] theorem State.resetBlock_LEN : s.resetBlock.LEN = Config.freeLength s.fresh := rfl
@[simp] theorem State.resetBlock_ph : s.resetBlock.ph = .idle := rfl
@[simp] theorem State.resetBlock_r : s.resetBlock.r = Config.freeRound s.fresh := rfl
@[simp] theorem State.resetBlock_jm : s.resetBlock.jm = Config.freeLength (s.fresh + 1) := rfl
@[simp] theorem State.resetBlock_jw : s.resetBlock.jw = Config.freeIndex s.fresh := rfl
@[simp] theorem State.resetBlock_i : s.resetBlock.i = Config.freeIndex (s.fresh + 1) := rfl
@[simp] theorem State.resetBlock_k : s.resetBlock.k = Config.freeIndex (s.fresh + 2) := rfl
@[simp] theorem State.resetBlock_DONE : s.resetBlock.DONE = false := rfl
@[simp] theorem State.resetBlock_cfg : s.resetBlock.cfg = s.cfg := rfl
@[simp] theorem State.resetBlock_IN : s.resetBlock.IN = s.IN := rfl
@[simp] theorem State.resetBlock_pins : s.resetBlock.pins = s.pins := rfl
@[simp] theorem State.resetBlock_inputChanged : s.resetBlock.inputChanged = false := rfl
@[simp] theorem State.resetBlock_fresh : s.resetBlock.fresh = s.fresh + 32 := rfl
end

section
variable (s : State) (j : Nat)
@[simp] theorem State.mixByte_S : (s.mixByte j).S = s.S.set (scratchIndex j) (s.S[scratchIndex j] ^^^ s.readIN j) := rfl
@[simp] theorem State.mixByte_H : (s.mixByte j).H = s.H := rfl
@[simp] theorem State.mixByte_OUT : (s.mixByte j).OUT = s.OUT := rfl
@[simp] theorem State.mixByte_LEN : (s.mixByte j).LEN = s.LEN := rfl
@[simp] theorem State.mixByte_ph : (s.mixByte j).ph = s.ph := rfl
@[simp] theorem State.mixByte_r : (s.mixByte j).r = s.r := rfl
@[simp] theorem State.mixByte_jm : (s.mixByte j).jm = s.jm := rfl
@[simp] theorem State.mixByte_jw : (s.mixByte j).jw = s.jw := rfl
@[simp] theorem State.mixByte_i : (s.mixByte j).i = s.i := rfl
@[simp] theorem State.mixByte_k : (s.mixByte j).k = s.k := rfl
@[simp] theorem State.mixByte_DONE : (s.mixByte j).DONE = s.DONE := rfl
@[simp] theorem State.mixByte_cfg : (s.mixByte j).cfg = s.cfg := rfl
@[simp] theorem State.mixByte_IN : (s.mixByte j).IN = s.IN := rfl
@[simp] theorem State.mixByte_pins : (s.mixByte j).pins = s.pins := rfl
@[simp] theorem State.mixByte_inputChanged : (s.mixByte j).inputChanged = s.inputChanged := rfl
@[simp] theorem State.mixByte_fresh : (s.mixByte j).fresh = s.fresh := rfl
end

section
variable (s : State) (n : Fin 16)
@[simp] theorem State.rewrite_S : (s.rewrite n).S = (s.S.set n (lowByte s.H)).set (rewriteHighIndex n) (highByte s.H) := rfl
@[simp] theorem State.rewrite_H : (s.rewrite n).H = s.H := rfl
@[simp] theorem State.rewrite_OUT : (s.rewrite n).OUT = s.OUT := rfl
@[simp] theorem State.rewrite_LEN : (s.rewrite n).LEN = s.LEN := rfl
@[simp] theorem State.rewrite_ph : (s.rewrite n).ph = s.ph := rfl
@[simp] theorem State.rewrite_r : (s.rewrite n).r = s.r := rfl
@[simp] theorem State.rewrite_jm : (s.rewrite n).jm = s.jm := rfl
@[simp] theorem State.rewrite_jw : (s.rewrite n).jw = s.jw := rfl
@[simp] theorem State.rewrite_i : (s.rewrite n).i = s.i := rfl
@[simp] theorem State.rewrite_k : (s.rewrite n).k = s.k := rfl
@[simp] theorem State.rewrite_DONE : (s.rewrite n).DONE = s.DONE := rfl
@[simp] theorem State.rewrite_cfg : (s.rewrite n).cfg = s.cfg := rfl
@[simp] theorem State.rewrite_IN : (s.rewrite n).IN = s.IN := rfl
@[simp] theorem State.rewrite_pins : (s.rewrite n).pins = s.pins := rfl
@[simp] theorem State.rewrite_inputChanged : (s.rewrite n).inputChanged = s.inputChanged := rfl
@[simp] theorem State.rewrite_fresh : (s.rewrite n).fresh = s.fresh := rfl
end

section
variable (s : State)
@[simp] theorem State.toRound_S : s.toRound.S = s.S := by unfold State.toRound; split <;> rfl
@[simp] theorem State.toRound_H : s.toRound.H = s.H := by unfold State.toRound; split <;> rfl
@[simp] theorem State.toRound_OUT : s.toRound.OUT = s.OUT := by unfold State.toRound; split <;> rfl
@[simp] theorem State.toRound_LEN : s.toRound.LEN = s.LEN := by unfold State.toRound; split <;> rfl
@[simp] theorem State.toRound_r : s.toRound.r = s.r := by unfold State.toRound; split <;> rfl
@[simp] theorem State.toRound_k : s.toRound.k = s.k := by unfold State.toRound; split <;> rfl
@[simp] theorem State.toRound_DONE : s.toRound.DONE = s.DONE := by unfold State.toRound; split <;> rfl
@[simp] theorem State.toRound_cfg : s.toRound.cfg = s.cfg := by unfold State.toRound; split <;> rfl
@[simp] theorem State.toRound_IN : s.toRound.IN = s.IN := by unfold State.toRound; split <;> rfl
@[simp] theorem State.toRound_pins : s.toRound.pins = s.pins := by unfold State.toRound; split <;> rfl
@[simp] theorem State.toRound_inputChanged : s.toRound.inputChanged = s.inputChanged := by unfold State.toRound; split <;> rfl
@[simp] theorem State.toRound_fresh : s.toRound.fresh = s.fresh := by unfold State.toRound; split <;> rfl
end

section
variable (s : State)
@[simp] theorem State.settleResult_S : s.settleResult.S = s.S := by unfold State.settleResult; split <;> rfl
@[simp] theorem State.settleResult_H : s.settleResult.H = s.H := by unfold State.settleResult; split <;> rfl
@[simp] theorem State.settleResult_LEN : s.settleResult.LEN = s.LEN := by unfold State.settleResult; split <;> rfl
@[simp] theorem State.settleResult_ph : s.settleResult.ph = s.ph := by unfold State.settleResult; split <;> rfl
@[simp] theorem State.settleResult_r : s.settleResult.r = s.r := by unfold State.settleResult; split <;> rfl
@[simp] theorem State.settleResult_jm : s.settleResult.jm = s.jm := by unfold State.settleResult; split <;> rfl
@[simp] theorem State.settleResult_jw : s.settleResult.jw = s.jw := by unfold State.settleResult; split <;> rfl
@[simp] theorem State.settleResult_i : s.settleResult.i = s.i := by unfold State.settleResult; split <;> rfl
@[simp] theorem State.settleResult_k : s.settleResult.k = s.k := by unfold State.settleResult; split <;> rfl
@[simp] theorem State.settleResult_DONE : s.settleResult.DONE = s.DONE := by unfold State.settleResult; split <;> rfl
@[simp] theorem State.settleResult_cfg : s.settleResult.cfg = s.cfg := by unfold State.settleResult; split <;> rfl
@[simp] theorem State.settleResult_IN : s.settleResult.IN = s.IN := by unfold State.settleResult; split <;> rfl
@[simp] theorem State.settleResult_pins : s.settleResult.pins = s.pins := by unfold State.settleResult; split <;> rfl
@[simp] theorem State.settleResult_inputChanged : s.settleResult.inputChanged = s.inputChanged := by unfold State.settleResult; split <;> rfl
end

section
variable (s : State) (p : Pins)
@[simp] theorem State.hostStore_S : (s.hostStore p).S = s.S := rfl
@[simp] theorem State.hostStore_H : (s.hostStore p).H = s.H := rfl
@[simp] theorem State.hostStore_OUT : (s.hostStore p).OUT = s.OUT := rfl
@[simp] theorem State.hostStore_LEN : (s.hostStore p).LEN = s.LEN := rfl
@[simp] theorem State.hostStore_ph : (s.hostStore p).ph = s.ph := rfl
@[simp] theorem State.hostStore_r : (s.hostStore p).r = s.r := rfl
@[simp] theorem State.hostStore_jm : (s.hostStore p).jm = s.jm := rfl
@[simp] theorem State.hostStore_jw : (s.hostStore p).jw = s.jw := rfl
@[simp] theorem State.hostStore_i : (s.hostStore p).i = s.i := rfl
@[simp] theorem State.hostStore_k : (s.hostStore p).k = s.k := rfl
@[simp] theorem State.hostStore_DONE : (s.hostStore p).DONE = s.DONE := rfl
@[simp] theorem State.hostStore_cfg : (s.hostStore p).cfg = s.cfg := rfl
@[simp] theorem State.hostStore_IN : (s.hostStore p).IN = Memory.writeAll s.IN p.hostStores := rfl
@[simp] theorem State.hostStore_inputChanged :
    (s.hostStore p).inputChanged = (s.inputChanged || s.storesBreakInput p.hostStores) := rfl
@[simp] theorem State.hostStore_pins : (s.hostStore p).pins = s.pins := rfl
@[simp] theorem State.hostStore_fresh : (s.hostStore p).fresh = s.fresh := rfl
end

end Sys2Proof.Machine
end

