-- ==== Sys2Proof/Laws/Ops.lean ====
section
/-! SUPPORT. What each shared operation does, said once: reading `S`, `OUT` and `IN` after a write, the start of a round, the
settled result, the host's stores, and the meanings of the four micro-operations by what they answer. -/

namespace Sys2Proof.Machine

/-! ### Registers -/

theorem getElem_setFin (v : Bytes16) (n m : Fin 16) (b : Byte) :
    (v.set n.val b)[m.val] = if m = n then b else v[m.val] := by
  rw [Vector.getElem_set]
  by_cases h : n.val = m.val
  · simp [h, Fin.ext_iff]
  · simp [h, Fin.ext_iff, Ne.symm h]

theorem State.writeS_read (s : State) (n m : Fin 16) (v : Byte) :
    (s.writeS n v).S[m] = if m = n then v else s.S[m] := getElem_setFin s.S n m v

theorem State.writeOUT_read (s : State) (n m : Fin 16) (v : Byte) :
    (s.writeOUT n v).OUT[m] = if m = n then v else s.OUT[m] := getElem_setFin s.OUT n m v

theorem State.mixByte_read (s : State) (j : Nat) (m : Fin 16) :
    (s.mixByte j).S[m] = if m = scratchIndex j then s.S[m] ^^^ s.readIN j else s.S[m] := by
  unfold State.mixByte
  rw [State.writeS_read]
  by_cases h : m = scratchIndex j <;> simp [h]

theorem State.rewrite_read (s : State) (n m : Fin 16) :
    (s.rewrite n).S[m] = if m = rewriteHighIndex n then highByte s.H else if m = n then lowByte s.H else s.S[m] := by
  unfold State.rewrite
  rw [State.writeS_read, State.writeS_read]

/-- The two bytes of a hash value are all of it (R58 (a)). -/
theorem highByte_append_lowByte (h : HashWord) : highByte h ++ lowByte h = h := by
  unfold highByte lowByte
  exact BitVec.extractLsb'_append_extractLsb'_eq_extractLsb' (w := 16) (x := h) (start₁ := 0) (len₁ := 8) (len₂ := 8)
    (start₂ := 8) rfl |>.trans (by simp)

/-- The even indices leave room for `jw + 1`. -/
theorem rewriteHighIndex_val {n : Fin 16} (h : n.val % 2 = 0) : (rewriteHighIndex n).val = n.val + 1 := by
  unfold rewriteHighIndex
  have := n.isLt
  rw [Fin.val_add]
  have : ((1 : Fin 16)).val = 1 := rfl
  omega

/-! ### The start of a round -/

theorem State.toRound_empty {s : State} (h : s.LEN = 0) : s.toRound = s.toHashPass := by simp [State.toRound, h]

theorem State.toRound_nonempty {s : State} (h : s.LEN ≠ 0) : s.toRound = s.toMixPass := by simp [State.toRound, h]

/-! ### The end of an operation -/

theorem State.settleResult_stable {s : State} (h : s.inputChanged = false) : s.settleResult = s := by
  simp [State.settleResult, h]

theorem State.settleResult_changed {s : State} (h : s.inputChanged = true) :
    s.settleResult = { s with OUT := freeLetters s.fresh, fresh := s.fresh + 16 } := by
  simp [State.settleResult, h]

/-! ### The host's stores -/

theorem State.hostStore_none {s : State} {p : Pins} (h : p.hostStores = []) : s.hostStore p = s := by
  unfold State.hostStore State.storesBreakInput
  simp [h]

/-- An idle block takes no harm from the host's stores. -/
theorem State.hostStore_inputChanged_of_idle {s : State} (p : Pins) (h : s.ph = .idle) :
    (s.hostStore p).inputChanged = s.inputChanged := by
  simp [State.storesBreakInput, State.busy, h]

/-- The host's stores keep its memory in canonical form. -/
theorem State.hostStore_wf {s : State} (p : Pins) (h : Memory.wf s.IN = true) : Memory.wf (s.hostStore p).IN = true :=
  Memory.wf_writeAll h p.hostStores

/-- An index no cell names reads as before, and so does one that the cells give the byte it has. -/
theorem State.hostStore_readIN {s : State} {p : Pins} {j : Nat} (hw : Memory.wf s.IN = true)
    (h : ∀ c ∈ p.hostStores, c.1 = j → c.2 = s.readIN j) : (s.hostStore p).readIN j = s.readIN j :=
  Memory.read_writeAll_of_agree hw h

/-- Stores that change no byte below `LEN` do not break R200. -/
theorem State.hostStore_inputChanged_of_stable {s : State} {p : Pins} (hw : Memory.wf s.IN = true)
    (h : ∀ c ∈ p.hostStores, c.1 < s.LEN → c.2 = s.readIN c.1) :
    (s.hostStore p).inputChanged = s.inputChanged := by
  suffices hb : s.storesBreakInput p.hostStores = false by simp [hb]
  unfold State.storesBreakInput
  refine Bool.and_eq_false_imp.2 fun _ => List.any_eq_false.2 fun c hc => ?_
  simp only [Bool.and_eq_true, decide_eq_true_eq, bne_iff_ne, not_and, not_not]
  intro hl
  exact Memory.read_writeAll_of_agree hw fun d hd hdc => by
    rw [← hdc]
    exact h d hd (hdc ▸ hl)

/-! ### The meanings by what they answer -/

theorem execEncode_idle {s : State} (len : Nat) (h : s.ph = .idle) :
    execEncode len s = .next ((s.initialise len).clearDone.toRound) := by
  simp [execEncode, State.busy, h]

theorem execEncode_busy {s : State} (len : Nat) (h : s.ph ≠ .idle) : execEncode len s = .next s := by
  simp [execEncode, State.busy, h]

theorem execMix_last {s : State} {jm : Nat} (h : jm + 1 = s.LEN) :
    execMix jm s = .next (s.mixByte jm).toHashPass := by
  simp [execMix, h, show jm < s.LEN by omega]

theorem execMix_more {s : State} {jm : Nat} (h : jm + 1 < s.LEN) :
    execMix jm s = .next ((s.mixByte jm).setJm (jm + 1)) := by
  simp [execMix, show jm < s.LEN by omega, show jm + 1 ≠ s.LEN by omega]

theorem execHstep_last {s : State} {i : Fin 16} (h : i.val = 0) :
    execHstep i s = .next (s.writeH (hashStep s.cfg s.H s.S[i])).toRewr := by
  simp [execHstep, h]

theorem execHstep_more {s : State} {i : Fin 16} (h : i.val ≠ 0) :
    execHstep i s = .next ((s.writeH (hashStep s.cfg s.H s.S[i])).setI (i - 1)) := by
  unfold execHstep
  rw [if_neg h]

theorem execRewr_more {s : State} {n : Fin 16} (he : n.val % 2 = 0) (h : n.val < 14) :
    execRewr n s = .next ((s.rewrite n).toNextHash (n + 2)) := by
  simp [execRewr, isRewriteIndex, he, h]

theorem execRewr_round {s : State} {n : Fin 16} (he : n.val % 2 = 0) (h : ¬ n.val < 14) (hr : s.r.val < 4) :
    execRewr n s = .next ((s.rewrite n).setR (s.r + 1)).toRound := by
  simp [execRewr, isRewriteIndex, he, h, hr]

theorem execRewr_final {s : State} {n : Fin 16} (he : n.val % 2 = 0) (h : ¬ n.val < 14) (hr : s.r.val = 4) :
    execRewr n s = .next (s.rewrite n).toMapPass := by
  simp [execRewr, isRewriteIndex, he, h, hr]

theorem execMap_last {s : State} {k : Fin 16} (h : k.val = 15) :
    execMap k s = .next (s.writeOUT k (mapByte s.S[k])).settleResult.toIdle.setDone := by
  simp [execMap, h]

theorem execMap_more {s : State} {k : Fin 16} (h : k.val ≠ 15) :
    execMap k s = .next ((s.writeOUT k (mapByte s.S[k])).setK (k + 1)) := by
  simp [execMap, h]

/-- Everything `MIX` can do. -/
theorem execMix_cases {s t : State} {jm : Nat} (h : execMix jm s = .next t) :
    (jm + 1 = s.LEN ∧ t = (s.mixByte jm).toHashPass) ∨
    (jm + 1 < s.LEN ∧ t = (s.mixByte jm).setJm (jm + 1)) := by
  unfold execMix at h
  split at h
  · injection h with h
    split at h
    · exact .inl ⟨‹_›, h.symm⟩
    · exact .inr ⟨by omega, h.symm⟩
  · cases h

/-- Everything `HSTEP` can do. -/
theorem execHstep_cases {s t : State} {i : Fin 16} (h : execHstep i s = .next t) :
    (i.val = 0 ∧ t = (s.writeH (hashStep s.cfg s.H s.S[i])).toRewr) ∨
    (i.val ≠ 0 ∧ t = (s.writeH (hashStep s.cfg s.H s.S[i])).setI (i - 1)) := by
  unfold execHstep at h
  injection h with h
  split at h
  · exact .inl ⟨‹_›, h.symm⟩
  · exact .inr ⟨‹_›, h.symm⟩

/-- Everything `REWR` can do. -/
theorem execRewr_cases {s t : State} {n : Fin 16} (h : execRewr n s = .next t) :
    n.val % 2 = 0 ∧
    ((n.val < 14 ∧ t = (s.rewrite n).toNextHash (n + 2)) ∨
     (n.val = 14 ∧ s.r.val < 4 ∧ t = ((s.rewrite n).setR (s.r + 1)).toRound) ∨
     (n.val = 14 ∧ s.r.val = 4 ∧ t = (s.rewrite n).toMapPass)) := by
  unfold execRewr at h
  have hn := n.isLt
  split at h
  next he =>
    have he : n.val % 2 = 0 := by simpa [isRewriteIndex] using he
    refine ⟨he, ?_⟩
    split at h
    · injection h with h
      exact .inl ⟨‹_›, h.symm⟩
    · split at h
      · injection h with h
        exact .inr (.inl ⟨by omega, ‹_›, h.symm⟩)
      · split at h
        · injection h with h
          exact .inr (.inr ⟨by omega, ‹_›, h.symm⟩)
        · cases h
  next => cases h

/-- Everything `MAP` can do. -/
theorem execMap_cases {s t : State} {k : Fin 16} (h : execMap k s = .next t) :
    (k.val = 15 ∧ t = (s.writeOUT k (mapByte s.S[k])).settleResult.toIdle.setDone) ∨
    (k.val ≠ 15 ∧ t = (s.writeOUT k (mapByte s.S[k])).setK (k + 1)) := by
  unfold execMap at h
  injection h with h
  split at h
  · exact .inl ⟨‹_›, h.symm⟩
  · exact .inr ⟨‹_›, h.symm⟩

end Sys2Proof.Machine
end

