-- ==== Sys2Proof/Laws/PerInstr.lean ====
section
/-! SUPPORT. Families of statements about every operation as syntax, one lemma per constructor. -/

namespace Sys2Proof.Laws

/-- A well-formed operation is what its code decodes to. -/
def CodeRoundTrip.Statement (i : Instr) : Prop := i.wf = true → decode (encode i) = .ok i

theorem CodeRoundTrip.nop : CodeRoundTrip.Statement .nop := fun _ => decode_command false 0

theorem CodeRoundTrip.encode (len : Nat) : CodeRoundTrip.Statement (.encode len) := fun _ => decode_command true len

theorem CodeRoundTrip.idle : CodeRoundTrip.Statement .idle := fun _ => decode_uop_idle 0

theorem CodeRoundTrip.mix (jm : Nat) : CodeRoundTrip.Statement (.mix jm) := fun _ => decode_uop_mix jm

theorem CodeRoundTrip.hstep (i : Fin 16) : CodeRoundTrip.Statement (.hstep i) := fun _ => decode_uop_hstep i

theorem CodeRoundTrip.rewr (jw : Fin 16) : CodeRoundTrip.Statement (.rewr jw) := fun h =>
  decode_uop_rewr (by simpa [Instr.wf] using h)

theorem CodeRoundTrip.map (k : Fin 16) : CodeRoundTrip.Statement (.map k) := fun _ => decode_uop_map k

end Sys2Proof.Laws
end

