-- ==== Sys2Proof/Laws/Step.lean ====
section
/-! SUPPORT. What an edge can do, said once: which operation each phase selects, the step in each phase, and the inversion of
a step and of a run. -/

namespace Sys2Proof.Machine

/-! ### The edge -/

@[simp] theorem State.edge_cons {s : State} {p : Pins} {rest : List Pins} (h : s.pins = p :: rest) : s.edge = p := by
  simp [State.edge, h]

@[simp] theorem State.edge_nil {s : State} (h : s.pins = []) : s.edge = Pins.quiet := by simp [State.edge, h]

theorem Pins.quiet_stable (len : Nat) (input : Nat → Byte) : Pins.quiet.stable len input :=
  ⟨rfl, fun _ hc => absurd hc List.not_mem_nil⟩

/-- What holds of a quiet sample and of every sample among the next `n` + 1 holds of the next edge. -/
theorem State.edge_of_take {P : Pins → Prop} {s : State} {n : Nat} (hq : P Pins.quiet)
    (h : ∀ p ∈ s.pins.take (n + 1), P p) : P s.edge := by
  unfold State.edge
  cases hp : s.pins with
  | nil => exact hq
  | cons p rest => exact h p (by simp [hp])

@[simp] theorem afterEdge_next (p : Pins) (t : State) : afterEdge p (.next t) = .next (t.hostStore p) := rfl

/-- An outcome after the host's store is a next state where the outcome before it was. -/
theorem afterEdge_eq_next {p : Pins} {o : Host.Outcome State Fault Refusal} {t : State} (h : afterEdge p o = .next t) :
    ∃ u, o = .next u ∧ t = u.hostStore p := by
  cases o with
  | next u => exact ⟨u, rfl, by simpa [afterEdge] using h.symm⟩
  | fault e => cases e
  | refused e => cases h

/-! ### The step in each phase -/

theorem waiting_of_ph {s : State} (h : s.ph ≠ .mix) : s.waiting = false := by simp [State.waiting, State.inReq, h]

theorem waiting_of_ack {s : State} (h : s.edge.inAck = true) : s.waiting = false := by simp [State.waiting, h]

theorem waiting_of_noAck {s : State} (hp : s.ph = .mix) (h : s.edge.inAck = false) : s.waiting = true := by
  simp [State.waiting, State.inReq, hp, h]

theorem step_rst {s : State} (h : s.edge.rst = true) :
    step s = .next ((s.pastEdge.resetBlock).hostStore s.edge) := by
  simp [step, h]

theorem step_wait {s : State} (h : s.edge.rst = false) (hw : s.waiting = true) :
    step s = .next (s.pastEdge.hostStore s.edge) := by
  simp [step, h, hw]

theorem step_decoded {s : State} {i : Instr} (h : s.edge.rst = false) (hw : s.waiting = false)
    (hd : decode s.fetch = .ok i) : step s = afterEdge s.edge (exec i s.pastEdge) := by
  simp [step, h, hw, hd]

theorem step_idle_quiet {s : State} (hp : s.ph = .idle) (h : s.pins = []) : step s = .next s := by
  have he := State.edge_nil h
  rw [step_decoded (i := .idle) (by rw [he]; rfl) (waiting_of_ph (by simp [hp])) (by simp [State.fetch, hp, h, Phase.code])]
  have : s.pastEdge = s := by
    unfold State.pastEdge
    rw [h, List.tail_nil, ← h]
  simp [he, exec, execIdle, this, State.hostStore_none (p := Pins.quiet) rfl]

theorem step_idle_nop {s : State} (hp : s.ph = .idle) (h : s.edge.rst = false) (hs : s.edge.start = false) :
    step s = .next (s.pastEdge.hostStore s.edge) := by
  cases hpins : s.pins with
  | nil =>
    have hpast : s.pastEdge = s := by
      unfold State.pastEdge
      rw [hpins, List.tail_nil, ← hpins]
    rw [step_idle_quiet hp hpins, State.edge_nil hpins, hpast, State.hostStore_none (p := Pins.quiet) rfl]
  | cons p rest =>
    have he := State.edge_cons hpins
    rw [step_decoded (i := .nop) h (waiting_of_ph (by simp [hp]))]
    · simp [exec, execNop]
    · have : p.start = false := by rw [← he]; exact hs
      simp [State.fetch, hp, hpins, Pins.command, this]

theorem step_idle_encode {s : State} (hp : s.ph = .idle) (h : s.edge.rst = false) (hs : s.edge.start = true) :
    step s = .next (((s.pastEdge.initialise s.edge.len).clearDone.toRound).hostStore s.edge) := by
  cases hpins : s.pins with
  | nil => rw [State.edge_nil hpins] at hs; cases hs
  | cons p rest =>
    have he := State.edge_cons hpins
    rw [step_decoded (i := .encode s.edge.len) h (waiting_of_ph (by simp [hp]))]
    · simp only [exec]
      rw [execEncode_idle _ (by simpa using hp)]
      rfl
    · have : p.start = true := by rw [← he]; exact hs
      simp [State.fetch, hp, hpins, Pins.command, this, he]

theorem step_mix {s : State} (hp : s.ph = .mix) (h : s.edge.rst = false) (ha : s.edge.inAck = true) :
    step s = afterEdge s.edge (execMix s.jm s.pastEdge) :=
  step_decoded (i := .mix s.jm) h (waiting_of_ack ha) (by simp [State.fetch, hp, Phase.code])

theorem step_hstep {s : State} (hp : s.ph = .hstep) (h : s.edge.rst = false) :
    step s = afterEdge s.edge (execHstep s.i s.pastEdge) :=
  step_decoded (i := .hstep s.i) h (waiting_of_ph (by simp [hp])) (by simp [State.fetch, hp, Phase.code])

theorem step_rewr {s : State} (hp : s.ph = .rewr) (h : s.edge.rst = false) (he : s.jw.val % 2 = 0) :
    step s = afterEdge s.edge (execRewr s.jw s.pastEdge) :=
  step_decoded (i := .rewr s.jw) h (waiting_of_ph (by simp [hp]))
    (by simpa [State.fetch, hp, Phase.code] using decode_uop_rewr he)

theorem step_map {s : State} (hp : s.ph = .map) (h : s.edge.rst = false) :
    step s = afterEdge s.edge (execMap s.k s.pastEdge) :=
  step_decoded (i := .map s.k) h (waiting_of_ph (by simp [hp])) (by simp [State.fetch, hp, Phase.code])

/-- The odd rewrite index of an unreachable state is no operation. -/
theorem decode_fetch_rewr_odd {s : State} (hp : s.ph = .rewr) (h : s.jw.val % 2 = 1) :
    decode s.fetch = .error .rewriteIndexOdd := by
  simpa [State.fetch, hp, Phase.code] using decode_uop_rewr_odd h

/-- Everything an edge can do. -/
theorem step_cases {s t : State} (h : step s = .next t) :
    (s.edge.rst = true ∧ t = (s.pastEdge.resetBlock).hostStore s.edge) ∨
    (s.edge.rst = false ∧
      ((s.ph = .idle ∧ s.edge.start = false ∧ t = s.pastEdge.hostStore s.edge) ∨
       (s.ph = .idle ∧ s.edge.start = true ∧
          t = ((s.pastEdge.initialise s.edge.len).clearDone.toRound).hostStore s.edge) ∨
       (s.ph = .mix ∧ s.edge.inAck = false ∧ t = s.pastEdge.hostStore s.edge) ∨
       (s.ph = .mix ∧ s.edge.inAck = true ∧ ∃ u, execMix s.jm s.pastEdge = .next u ∧ t = u.hostStore s.edge) ∨
       (s.ph = .hstep ∧ ∃ u, execHstep s.i s.pastEdge = .next u ∧ t = u.hostStore s.edge) ∨
       (s.ph = .rewr ∧ ∃ u, execRewr s.jw s.pastEdge = .next u ∧ t = u.hostStore s.edge) ∨
       (s.ph = .map ∧ ∃ u, execMap s.k s.pastEdge = .next u ∧ t = u.hostStore s.edge))) := by
  cases hr : s.edge.rst with
  | true =>
    rw [step_rst hr] at h
    injection h with h
    exact .inl ⟨rfl, h.symm⟩
  | false =>
    refine .inr ⟨rfl, ?_⟩
    cases hp : s.ph with
    | idle =>
      cases hs : s.edge.start with
      | false =>
        rw [step_idle_nop hp hr hs] at h
        injection h with h
        exact .inl ⟨rfl, rfl, h.symm⟩
      | true =>
        rw [step_idle_encode hp hr hs] at h
        injection h with h
        exact .inr (.inl ⟨rfl, rfl, h.symm⟩)
    | mix =>
      cases ha : s.edge.inAck with
      | false =>
        rw [step_wait hr (waiting_of_noAck hp ha)] at h
        injection h with h
        exact .inr (.inr (.inl ⟨rfl, rfl, h.symm⟩))
      | true =>
        rw [step_mix hp hr ha] at h
        exact .inr (.inr (.inr (.inl ⟨rfl, rfl, afterEdge_eq_next h⟩)))
    | hstep =>
      rw [step_hstep hp hr] at h
      exact .inr (.inr (.inr (.inr (.inl ⟨rfl, afterEdge_eq_next h⟩))))
    | rewr =>
      rcases Nat.mod_two_eq_zero_or_one s.jw.val with he | he
      · rw [step_rewr hp hr he] at h
        exact .inr (.inr (.inr (.inr (.inr (.inl ⟨rfl, afterEdge_eq_next h⟩)))))
      · simp [step, hr, waiting_of_ph (s := s) (by simp [hp]), decode_fetch_rewr_odd hp he, afterEdge] at h
    | map =>
      rw [step_map hp hr] at h
      exact .inr (.inr (.inr (.inr (.inr (.inr ⟨rfl, afterEdge_eq_next h⟩)))))

/-- An edge takes its sample off. -/
theorem step_pins {s t : State} (h : step s = .next t) : t.pins = s.pins.tail := by
  rcases step_cases h with ⟨_, rfl⟩ | ⟨_, h⟩
  · simp
  rcases h with ⟨_, _, rfl⟩ | ⟨_, _, rfl⟩ | ⟨_, _, rfl⟩ | ⟨_, _, u, hu, rfl⟩ | ⟨_, u, hu, rfl⟩ | ⟨_, u, hu, rfl⟩ | ⟨_, u, hu, rfl⟩
  · simp
  · simp
  · simp
  · rcases execMix_cases hu with ⟨_, rfl⟩ | ⟨_, rfl⟩ <;> simp
  · rcases execHstep_cases hu with ⟨_, rfl⟩ | ⟨_, rfl⟩ <;> simp
  · obtain ⟨_, ⟨_, rfl⟩ | ⟨_, _, rfl⟩ | ⟨_, _, rfl⟩⟩ := execRewr_cases hu <;> simp
  · rcases execMap_cases hu with ⟨_, rfl⟩ | ⟨_, rfl⟩ <;> simp

/-! ### Runs -/

@[simp] theorem run_zero (s : State) : run 0 s = .next s := rfl

theorem run_succ_of_step {n : Nat} {s t : State} (h : step s = .next t) : run (n + 1) s = run n t := by
  simp [run, h]

/-- A run in two parts. -/
theorem run_add_of_run {m n : Nat} {s t : State} (h : run m s = .next t) : run (m + n) s = run n t := by
  induction m generalizing s with
  | zero => simp only [run_zero, Host.Outcome.next.injEq] at h; simp [h]
  | succ m ih =>
    cases hs : step s with
    | next u =>
      rw [run_succ_of_step hs] at h
      rw [Nat.succ_add, run_succ_of_step hs]
      exact ih h
    | fault e => cases e
    | refused e => simp [run, hs] at h

/-- The first edge of a run that answers a next state. -/
theorem step_of_run_succ {n : Nat} {s t : State} (h : run (n + 1) s = .next t) : ∃ u, step s = .next u ∧ run n u = .next t := by
  cases hs : step s with
  | next u => exact ⟨u, rfl, by rwa [run_succ_of_step hs] at h⟩
  | fault e => cases e
  | refused e => simp [run, hs] at h

/-- A run of `n` edges takes `n` samples off. -/
theorem run_pins {n : Nat} {s t : State} (h : run n s = .next t) : t.pins = s.pins.drop n := by
  induction n generalizing s with
  | zero =>
    rw [run_zero, Host.Outcome.next.injEq] at h
    rw [← h, List.drop_zero]
  | succ n ih =>
    obtain ⟨u, hu, hr⟩ := step_of_run_succ h
    rw [ih hr, step_pins hu, List.drop_tail]

/-- Once the samples are used up every read is answered, so only the edges before that count. -/
theorem ReadsAnswered.of_first {s : State} (k n : Nat) (h : ReadsAnswered k s) (hk : s.pins.length ≤ k) :
    ReadsAnswered n s := by
  intro m u _ hr hq
  rcases Nat.lt_or_ge m k with hm | hm
  · exact h m u hm hr hq
  · rw [State.edge_nil (by rw [run_pins hr]; exact List.drop_eq_nil_of_le (hk.trans hm))]
    rfl

/-- Reads answered from here are answered from the next state on. -/
theorem ReadsAnswered.tail {n : Nat} {s t : State} (h : ReadsAnswered (n + 1) s) (ht : step s = .next t) :
    ReadsAnswered n t := fun m u hm hr =>
  h (m + 1) u (by omega) (by rw [run_succ_of_step ht]; exact hr)

end Sys2Proof.Machine
end

