-- ==== Sys2Proof/Tests/Slice0.lean ====
section
/-! SUPPORT. The author's own tests: the well-formedness smoke test, codes written out from the spec's tables, vectors of
95_test_vectors.md (one step each), the source's one vector at the command level, and for each statement with hypotheses a
witness that meets them. Expected values come from the spec. -/

namespace Sys2Proof.Tests

open Sys2Proof Sys2Proof.Machine

-- One declaration after another: the kernel evaluations below are long, and a thread each would wait in memory.
set_option Elab.async false

/-- The state after an outcome meets a check. -/
def after (o : Host.Outcome State Fault Refusal) (check : State → Bool) : Bool :=
  match o with
  | .next t => check t
  | .fault _ => false
  | .refused _ => false

/-- The command-level input of a list of bytes. -/
def inputOf (bytes : List Byte) (j : Nat) : Byte := bytes.getD j 0

/-- `my-passw0rd`, the input of the source's vector S1. -/
def password : List Byte := [0x6D, 0x79, 0x2D, 0x70, 0x61, 0x73, 0x73, 0x77, 0x30, 0x72, 0x64]

/-- The input space with `my-passw0rd` in place. -/
def passwordIN : Memory :=
  [(0, 0x6D), (1, 0x79), (2, 0x2D), (3, 0x70), (4, 0x61), (5, 0x73), (6, 0x73), (7, 0x77), (8, 0x30), (9, 0x72), (10, 0x64)]

/-- An edge at which the host presents `ENCODE len`. -/
def presentEncode (len : Nat) : Pins := { Pins.quiet with start := true, len := len }

/-- An edge at which the host asserts `rst`. -/
def presentReset : Pins := { Pins.quiet with rst := true }

/-- An edge at which the host leaves a read unanswered. -/
def presentWait : Pins := { Pins.quiet with inAck := false }

/-- A state of an operation on `my-passw0rd` in a given phase. -/
def inPhase (q : Phase) : State := { State.reset with ph := q, LEN := 11, H := 0x0011, IN := passwordIN }

/-! ## Well-formedness -/

theorem test_wf_refuses_odd_rewr : Instr.wf (.rewr 3) = false := by decide
theorem test_wf_admits_rewr_14 : Instr.wf (.rewr 14) = true := by decide

/-! ## Codes written out from R80, R82 and 95_test_vectors.md section 9 -/

theorem test_decode_nop : decode (.cmd 0x0) = .ok .nop := by decide
theorem test_decode_nop_ignores_len : decode (.cmd 0x16) = .ok .nop := by decide
theorem test_decode_encode_0 : decode (.cmd 0x1) = .ok (.encode 0) := by decide
theorem test_decode_encode_11 : decode (.cmd 0x17) = .ok (.encode 11) := by decide
theorem test_decode_encode_20 : decode (.cmd 0x29) = .ok (.encode 20) := by decide
theorem test_decode_idle : decode (.uop 0b000#3 0) = .ok .idle := by decide
theorem test_decode_mix_16 : decode (.uop 0b001#3 16) = .ok (.mix 16) := by decide
theorem test_decode_hstep_15 : decode (.uop 0b010#3 15) = .ok (.hstep 15) := by decide
theorem test_decode_hstep_16_refused : decode (.uop 0b010#3 16) = .error .indexAbove15 := by decide
theorem test_decode_rewr_14 : decode (.uop 0b011#3 14) = .ok (.rewr 14) := by decide
theorem test_decode_rewr_13_refused : decode (.uop 0b011#3 13) = .error .rewriteIndexOdd := by decide
theorem test_decode_map_15 : decode (.uop 0b100#3 15) = .ok (.map 15) := by decide
theorem test_decode_reserved :
    [0b101#3, 0b110#3, 0b111#3].map (fun c => decode (.uop c 0)) =
      [.error .reservedPhase, .error .reservedPhase, .error .reservedPhase] := by decide

/-- The rows of opcode_table.json as whole-byte words: the two commands, then the phase codes no command word has. -/
theorem test_table_words :
    [0, 1, 2, 3, 4].map (decodeTableWord 8) =
      [some .nop, some (.encode 0), some (.hstep 0), some (.rewr 0), some (.map 0)] := by decide

/-- The same numbers read with the exact widths of the `UOP` rows. -/
theorem test_table_words_exact :
    [0, 1, 2, 3, 4, 5].map (decodeTableWord 3) =
      [some .idle, some (.mix 0), some (.hstep 0), some (.rewr 0), some (.map 0), none] := by decide

/-- A command placed right after reset is the next step's (Q4). -/
theorem test_fetch_word_encode :
    after (step (State.reset.withFetchWord 1 1)) (fun t => t.ph == .hstep && t.H == 0x0011 && t.i == 15) = true := by
  decide +kernel

/-- `MIX` placed right after reset is the next step's. -/
theorem test_fetch_word_mix :
    after (step (State.reset.withFetchWord 3 1)) (fun t => t.ph == .hstep && t.LEN == 1 && t.pins == []) = true := by
  decide +kernel

/-! ## One step of each operation -/

/-- Q2: `NOP` leaves `DONE` and the phase. -/
theorem test_nop : after (exec .nop { State.reset with DONE := true }) (fun t => t.DONE && t.ph == .idle) = true := by
  decide +kernel

/-- Q3. -/
theorem test_encode_11 :
    after (exec (.encode 11) { State.reset with DONE := true, S := Vector.replicate 16 0xFF, H := 0x006D })
      (fun t => t.ph == .mix && t.r == 0 && t.jm == 0 && t.LEN == 11 && !t.DONE && t.H == 0x0011 &&
        t.S == Vector.replicate 16 0) = true := by
  decide +kernel

/-- Q16: an `ENCODE` while busy has no effect. -/
theorem test_encode_busy :
    after (exec (.encode 5) { inPhase .hstep with r := 1, jw := 6, i := 9 })
      (fun t => t.ph == .hstep && t.LEN == 11 && t.i == 9 && t.r == 1) = true := by
  decide +kernel

theorem test_idle : after (exec .idle { State.reset with DONE := true }) (fun t => t.DONE && t.ph == .idle) = true := by
  decide +kernel

/-- M3: input index 16 wraps to `S[15]`, 61 ^ 71 = 10. -/
theorem test_mix_16 :
    after (exec (.mix 16) { State.reset with
        ph := .mix, LEN := 20, IN := [(16, 0x71)],
        S := #v[0x70, 0x6F, 0x6E, 0x6D, 0x6C, 0x6B, 0x6A, 0x69, 0x68, 0x67, 0x66, 0x65, 0x64, 0x63, 0x62, 0x61] })
      (fun t => t.ph == .mix && t.jm == 17 &&
        t.S == #v[0x70, 0x6F, 0x6E, 0x6D, 0x6C, 0x6B, 0x6A, 0x69, 0x68, 0x67, 0x66, 0x65, 0x64, 0x63, 0x62, 0x10]) =
      true := by
  decide +kernel

/-- M2 and Q6: index 15 goes to `S[0]`; the last byte of the pass leads to `HSTEP 15`. -/
theorem test_mix_last :
    after (exec (.mix 15) { State.reset with ph := .mix, LEN := 16, r := 2, IN := [(15, 0x70)] })
      (fun t => t.ph == .hstep && t.jw == 0 && t.i == 15 && t.r == 2 && t.S[0] == 0x70 && t.S[15] == 0) = true := by
  decide +kernel

/-- H7 and Q8: 00E1 ^ C0C1 ^ E2C1 = 22E1. -/
theorem test_hstep_H7 :
    after (exec (.hstep 9) { inPhase .hstep with H := 0xE101, S := (Vector.replicate 16 0).set 9 0x79, jw := 6, r := 1 })
      (fun t => t.H == 0x22E1 && t.ph == .hstep && t.i == 8 && t.jw == 6 && t.r == 1) = true := by
  decide +kernel

/-- H3 and Q9: the table terms cancel; `HSTEP 0` leads to `REWR`. -/
theorem test_hstep_last :
    after (exec (.hstep 0) { inPhase .hstep with H := 0x1234, S := (Vector.replicate 16 0).set 0 0x34, jw := 6 })
      (fun t => t.H == 0x0012 && t.ph == .rewr && t.jw == 6) = true := by
  decide +kernel

/-- W1 and Q10: low byte first. -/
theorem test_rewr_0 :
    after (exec (.rewr 0) { inPhase .rewr with H := 0xF93B })
      (fun t => t.S[0] == 0x3B && t.S[1] == 0xF9 && t.S[2] == 0 && t.H == 0xF93B && t.ph == .hstep && t.jw == 2 &&
        t.i == 15) = true := by
  decide +kernel

/-- W2, Q11, Q12 and Q13: the end of a pass, in round 1 with and without input and in round 4. -/
theorem test_rewr_14 :
    after (exec (.rewr 14) { inPhase .rewr with H := 0x006D, r := 1 })
      (fun t => t.S[14] == 0x6D && t.S[15] == 0 && t.ph == .mix && t.r == 2 && t.jm == 0) = true ∧
    after (exec (.rewr 14) { inPhase .rewr with LEN := 0, r := 1 })
      (fun t => t.ph == .hstep && t.r == 2 && t.jw == 0 && t.i == 15) = true ∧
    after (exec (.rewr 14) { inPhase .rewr with r := 4 }) (fun t => t.ph == .map && t.k == 0 && t.r == 4) = true := by
  decide +kernel

/-- R161's examples and Q14. -/
theorem test_map_7 :
    after (exec (.map 7) { inPhase .map with S := (Vector.replicate 16 0).set 7 0xBE })
      (fun t => t.OUT[7] == 0x6C && t.OUT[6] == 0 && t.ph == .map && t.k == 8 && !t.DONE) = true := by
  decide +kernel

/-- Q15: `MAP 15` completes the operation. -/
theorem test_map_15 :
    after (exec (.map 15) { inPhase .map with S := (Vector.replicate 16 0).set 15 0x45 })
      (fun t => t.OUT[15] == 0x45 && t.ph == .idle && t.DONE) = true := by
  decide +kernel

/-! ## Edges -/

/-- Q17 and R174: reset wins over the command and the micro-operation. -/
theorem test_step_reset :
    after (step { inPhase .hstep with pins := [{ presentReset with start := true, len := 3 }] })
      (fun t => t.ph == .idle && !t.DONE && t.pins == []) = true := by
  decide +kernel

/-- R51: an unanswered read waits. -/
theorem test_step_wait :
    after (step { inPhase .mix with jm := 3, pins := [presentWait] })
      (fun t => t.ph == .mix && t.jm == 3 && t.S == Vector.replicate 16 0 && t.pins == []) = true := by
  decide +kernel

/-- Q19: an `ENCODE` at the edge of `MAP 15` is not accepted there. -/
theorem test_step_command_at_end :
    after (step { inPhase .map with k := 15, pins := [presentEncode 3] })
      (fun t => t.ph == .idle && t.DONE && t.LEN == 11) = true := by
  decide +kernel

/-- R200: a changed input byte below `LEN` during the operation is remembered; one at or above `LEN`, or one stored as it is, is not. -/
theorem test_step_input_changed :
    after (step { inPhase .hstep with pins := [{ Pins.quiet with hostStores := [(2, 0x2D), (10, 0x65)] }] })
      (fun t => t.inputChanged && t.readIN 10 == 0x65) = true ∧
    after (step { inPhase .hstep with pins := [{ Pins.quiet with hostStores := [(11, 0x65), (10, 0x64)] }] })
      (fun t => !t.inputChanged && t.readIN 11 == 0x65) = true := by
  decide +kernel

/-! ## The table, the mapper, the command level -/

/-- The complete mapper table of R166, row by row. -/
def mapperTable : List Byte :=
  [0x61, 0x61, 0x61, 0x61, 0x61, 0x61, 0x61, 0x61, 0x61, 0x61, 0x61, 0x61, 0x61, 0x61, 0x61, 0x61] ++
  [0x62, 0x62, 0x62, 0x62, 0x62, 0x62, 0x62, 0x62, 0x62, 0x62, 0x62, 0x62, 0x62, 0x62, 0x62, 0x62] ++
  [0x63, 0x63, 0x63, 0x63, 0x63, 0x63, 0x63, 0x63, 0x63, 0x63, 0x63, 0x63, 0x63, 0x63, 0x63, 0x63] ++
  [0x64, 0x64, 0x64, 0x64, 0x64, 0x64, 0x64, 0x64, 0x64, 0x64, 0x64, 0x64, 0x64, 0x64, 0x64, 0x64] ++
  [0x65, 0x41, 0x42, 0x43, 0x44, 0x45, 0x46, 0x47, 0x48, 0x49, 0x4A, 0x4B, 0x4C, 0x4D, 0x4E, 0x4F] ++
  [0x50, 0x51, 0x52, 0x53, 0x54, 0x55, 0x56, 0x57, 0x58, 0x59, 0x5A, 0x66, 0x66, 0x66, 0x66, 0x66] ++
  [0x67, 0x61, 0x62, 0x63, 0x64, 0x65, 0x66, 0x67, 0x68, 0x69, 0x6A, 0x6B, 0x6C, 0x6D, 0x6E, 0x6F] ++
  [0x70, 0x71, 0x72, 0x73, 0x74, 0x75, 0x76, 0x77, 0x78, 0x79, 0x7A, 0x68, 0x68, 0x68, 0x68, 0x68] ++
  [0x69, 0x69, 0x69, 0x69, 0x69, 0x69, 0x69, 0x69, 0x69, 0x69, 0x69, 0x69, 0x69, 0x69, 0x69, 0x69] ++
  [0x6A, 0x6A, 0x6A, 0x6A, 0x6A, 0x6A, 0x6A, 0x6A, 0x6A, 0x6A, 0x6A, 0x6A, 0x6A, 0x6A, 0x6A, 0x6A] ++
  [0x6B, 0x6B, 0x6B, 0x6B, 0x6B, 0x6B, 0x6B, 0x6B, 0x6B, 0x6B, 0x6B, 0x6B, 0x6B, 0x6B, 0x6B, 0x6B] ++
  [0x6C, 0x6C, 0x6C, 0x6C, 0x6C, 0x6C, 0x6C, 0x6C, 0x6C, 0x6C, 0x6C, 0x6C, 0x6C, 0x6C, 0x6C, 0x6C] ++
  [0x6D, 0x41, 0x42, 0x43, 0x44, 0x45, 0x46, 0x47, 0x48, 0x49, 0x4A, 0x4B, 0x4C, 0x4D, 0x4E, 0x4F] ++
  [0x50, 0x51, 0x52, 0x53, 0x54, 0x55, 0x56, 0x57, 0x58, 0x59, 0x5A, 0x6E, 0x6E, 0x6E, 0x6E, 0x6E] ++
  [0x6F, 0x61, 0x62, 0x63, 0x64, 0x65, 0x66, 0x67, 0x68, 0x69, 0x6A, 0x6B, 0x6C, 0x6D, 0x6E, 0x6F] ++
  [0x70, 0x71, 0x72, 0x73, 0x74, 0x75, 0x76, 0x77, 0x78, 0x79, 0x7A, 0x70, 0x70, 0x70, 0x70, 0x70]

/-- R166: the mapper gives the printed table. -/
theorem test_mapper_table : (List.range 256).map (fun n => mapByte (BitVec.ofNat 8 n)) = mapperTable := by decide +kernel

/-- M9: the fold of `abcdefghijklmnopqrst`. -/
theorem test_fold_20 :
    foldInput 20 (fun j => BitVec.ofNat 8 (0x61 + j)) =
      #v[0x70, 0x6F, 0x6E, 0x6D, 0x6C, 0x6B, 0x6A, 0x69, 0x68, 0x67, 0x66, 0x65, 0x10, 0x10, 0x10, 0x10] := by
  decide +kernel

/-- P1: the port `out_chars` of the result `pjqtudckibycRKbj`. -/
theorem test_outChars :
    State.outChars { State.reset with
        OUT := #v[0x70, 0x6A, 0x71, 0x74, 0x75, 0x64, 0x63, 0x6B, 0x69, 0x62, 0x79, 0x63, 0x52, 0x4B, 0x62, 0x6A] } =
      0x6A624B52637962696B63647574716A70#128 := by
  decide +kernel

/-! ## Witnesses: for each statement with hypotheses, a concrete case that meets them -/

/-- A state of any phase of an operation meets the invariant. -/
theorem inPhase_inv (q : Phase) : Inv { inPhase q with S := Vector.replicate 16 0, H := 0 } := by
  constructor <;> cases q <;> simp [inPhase, State.reset, Memory.wf, passwordIN, Memory.unlisted]

theorem witness_DecodeAndEncodeAgree :
    Instr.wf (.rewr 14) = true ∧ decode (.cmd 0x17) = .ok (.encode 11) ∧ Instr.encode 11 ≠ .nop ∧ Instr.encode 11 ≠ .idle := by
  decide

theorem witness_ReservedPhaseCodesAreRefused : 5 ≤ (0b101#3).toNat ∧ 5 ≤ (0b111#3).toNat := by decide

theorem witness_NopChangesNothing (q : Phase) (hq : q = .mix ∨ q = .hstep ∨ q = .rewr ∨ q = .map) :
    let s : State := { inPhase q with S := Vector.replicate 16 0, H := 0, pins := [Pins.quiet] }
    Inv s ∧ s.pins = Pins.quiet :: [] ∧ s.busy = true ∧ Pins.quiet.start = false ∧ Pins.quiet.rst = false ∧
      s.waiting = false := by
  refine ⟨?_, rfl, ?_, rfl, rfl, ?_⟩
  · constructor <;> cases q <;> simp [inPhase, State.reset, Memory.wf, passwordIN, Memory.unlisted]
  · rcases hq with rfl | rfl | rfl | rfl <;> rfl
  · rcases hq with rfl | rfl | rfl | rfl <;> rfl

theorem witness_EncodeInIdleInitialises : (inPhase .map).ph ≠ .idle ∧ State.reset.ph = .idle ∧ (0 : Nat) = 0 ∧ (11 : Nat) ≠ 0 := by decide

theorem witness_EncodeWhileBusyHasNoEffect :
    (inPhase .map).ph ≠ .idle ∧
    (let s : State := { State.reset with pins := [presentEncode 11] }
     s.ph = .idle ∧ s.pins = [presentEncode 11] ∧ (presentEncode 11).rst = false ∧ (presentEncode 11).start = true) := by
  decide

theorem witness_IdleChangesNothing :
    State.reset.ph = .idle ∧ State.reset.pins = [] ∧
    (let s : State := { State.reset with pins := [Pins.quiet] }
     s.ph = .idle ∧ s.pins = [Pins.quiet] ∧ Pins.quiet.rst = false ∧ Pins.quiet.start = false) := by
  decide

/-- The first and the last input byte of a pass, and a waiting read. -/
theorem witness_MixXorsOneScratchByte :
    0 < (inPhase .mix).LEN ∧ 0 + 1 ≠ (inPhase .mix).LEN ∧ 10 < (inPhase .mix).LEN ∧ 10 + 1 = (inPhase .mix).LEN ∧
    (let s : State := { inPhase .mix with pins := [presentWait] }
     s.ph = .mix ∧ s.pins = [presentWait] ∧ presentWait.rst = false ∧ presentWait.inAck = false) := by
  decide

/-- The case `H[7:0]` = `S[i]`, with `i` = 0 and `i` = 15. -/
theorem witness_HstepReplacesHash :
    let s : State := { inPhase .hstep with H := 0xFFFF, S := Vector.replicate 16 0xFF }
    s.H.setWidth 8 = s.S[(0 : Fin 16)] ∧ s.H.setWidth 8 = s.S[(15 : Fin 16)] := by
  decide

/-- `jw` = 0, 12 and 14; `r` = 3 and 4; with and without input. -/
theorem witness_RewrWritesHashLowByteFirst :
    (0 : Fin 16).val % 2 = 0 ∧ (0 : Fin 16).val < 14 ∧ (12 : Fin 16).val % 2 = 0 ∧ (12 : Fin 16).val < 14 ∧
    (14 : Fin 16).val % 2 = 0 ∧ ¬ (14 : Fin 16).val < 14 ∧
    (let s : State := { inPhase .rewr with r := 3 }
     s.r.val ≤ 4 ∧ s.r.val < 4 ∧ s.LEN ≠ 0) ∧
    (let s : State := { inPhase .rewr with r := 3, LEN := 0 }
     s.r.val < 4 ∧ s.LEN = 0) ∧
    (let s : State := { inPhase .rewr with r := 4 }
     s.r.val ≤ 4 ∧ ¬ s.r.val < 4) := by
  decide

/-- An operation that the host kept stable and one that it did not, at `k` = 14 and `k` = 15; `REWR 14` of the fifth round. -/
theorem witness_MapWritesOneCharacter :
    (inPhase .map).inputChanged = false ∧
    (let s : State := { inPhase .map with inputChanged := true }
     s.inputChanged = true) ∧ (14 : Fin 16).val ≠ 15 ∧ (15 : Fin 16).val = 15 ∧
    after (step { inPhase .rewr with jw := 14, r := 4 }) (fun t => t.ph == .map) = true := by decide +kernel

theorem witness_ExcludedOperandsAreStuck :
    State.reset.LEN ≤ 0 ∧ (inPhase .mix).LEN ≤ 11 ∧ (15 : Fin 16).val % 2 = 1 ∧
    (let s : State := { inPhase .rewr with r := 5 }
     4 < s.r.val) ∧
    (let s : State := { inPhase .rewr with jw := 15 }
     s.ph = .rewr ∧ s.jw.val % 2 = 1 ∧ s.edge.rst = false) := by
  decide

theorem witness_MapperImageIsTheLetters : isLetter 0x41 = true ∧ isLetter 0x7A = true := by decide

/-- One state for each phase; in the last, an operation that stops. -/
theorem witness_StepRunsTheDecodedOperation :
    (∀ q ∈ [Phase.idle, .mix, .hstep, .rewr, .map], (decode (inPhase q).fetch).toOption.any (fun i => i.wf) = true ∧
      (inPhase q).edge.rst = false ∧ (inPhase q).waiting = false) ∧
    (let s : State := { inPhase .mix with jm := 11 }
     decode s.fetch = .ok (.mix 11) ∧ Instr.wf (.mix 11) = true ∧ s.edge.rst = false ∧ s.waiting = false) := by
  decide

theorem witness_PhaseSelectsTheEnabledOperation :
    ∀ q ∈ [Phase.idle, .mix, .hstep, .rewr, .map], (inPhase q).ph = q ∧ (inPhase q).jw.val % 2 = 0 := by decide

/-- A reset at which the host stores two bytes. -/
theorem witness_ResetEdgeClearsPhaseAndDone :
    let s : State := { inPhase .map with pins := [{ presentReset with hostStores := [(0, 0x21), (3, 0x22)] }] }
    s.edge.rst = true ∧ Memory.wf s.IN = true ∧ ∀ c ∈ s.edge.hostStores, c.1 ≠ 4 := by decide

theorem witness_ResetEdgeLeavesFreeValues :
    let s : State := { inPhase .hstep with pins := [presentReset] }
    s.edge.rst = true := by decide

/-- A state outside the invariant, as power-up may leave it. -/
theorem witness_InvariantHoldsAtReset :
    let s : State := { inPhase .rewr with r := 7, jw := 15, DONE := true, pins := [presentReset] }
    s.edge.rst = true ∧ Memory.wf s.IN = true := by decide

theorem witness_CommandHeldIsAcceptedAfterDone :
    let s : State := { inPhase .map with k := 15, pins := [presentEncode 3, presentEncode 3] }
    s.ph = .map ∧ s.k.val = 15 ∧ s.pins = presentEncode 3 :: presentEncode 3 :: [] ∧ (presentEncode 3).rst = false ∧
      (presentEncode 3).start = true := by
  decide

/-- Two bytes for index 4 in one list, and index 5 not stored. -/
theorem witness_HostStoreIsReadBack :
    let p : Pins := { Pins.quiet with hostStores := [(4, 0x21), (0, 0x6D), (4, 0x00)] }
    Memory.wf (inPhase .idle).IN = true ∧ p.hostStores = [(4, 0x21), (0, 0x6D)] ++ (4, 0x00) :: [] ∧
      (∀ c ∈ p.hostStores, c.1 ≠ 5) := by decide

/-- Every phase, and a completed operation, meets the invariant; the reset state has a next state. -/
theorem witness_InvariantKeptByEveryStep :
    (∀ q, Inv { inPhase q with S := Vector.replicate 16 0, H := 0 }) ∧
    Inv { State.reset with DONE := true, OUT := Vector.replicate 16 0x61 } ∧ step State.reset = .next State.reset := by
  refine ⟨inPhase_inv, ?_, step_idle_quiet rfl rfl⟩
  constructor <;> simp [State.reset, Memory.wf]
  decide

theorem witness_EveryReachableStateHasANextState : Inv { inPhase .map with S := Vector.replicate 16 0, H := 0 } ∧
    Memory.wf passwordIN = true := ⟨inPhase_inv .map, by decide⟩

theorem witness_BlockWritesNoMemory :
    let s : State := { State.reset with pins := [{ Pins.quiet with hostStores := [(4, 0x21)] }] }
    exec .nop State.reset = .next State.reset ∧ step State.reset = .next State.reset ∧
      State.reset.edge.hostStores = [] ∧ (∃ t, step s = .next t) ∧ Memory.wf s.IN = true ∧
      ∀ c ∈ s.edge.hostStores, c.1 ≠ 5 :=
  ⟨rfl, step_idle_quiet rfl rfl, rfl, ⟨_, step_idle_nop rfl rfl rfl⟩, rfl, by decide⟩

/-- An accepted `ENCODE`, at which most registers change, and a waiting read, at which none does. -/
theorem witness_RegistersChangeOnlyByTheirWriters :
    let s : State := { State.reset with DONE := true, pins := [presentEncode 11] }
    let w : State := { inPhase .mix with jm := 10, pins := [presentWait] }
    (∃ t, step s = .next t ∧ t.H ≠ s.H ∧ t.LEN ≠ s.LEN ∧ t.DONE ≠ s.DONE ∧ t.ph ≠ s.ph) ∧ s.edge.rst = false ∧
      (∃ t, step w = .next t) ∧ w.edge.rst = false ∧ w.waiting = true :=
  ⟨⟨_, step_idle_encode rfl rfl rfl, by decide, by decide, by decide, by decide⟩, rfl, ⟨_, step_wait rfl rfl⟩, rfl, rfl⟩

theorem witness_BusyAndDoneAreNeverTogether :
    Inv { inPhase .mix with S := Vector.replicate 16 0, H := 0 } ∧ (inPhase .mix).inIdx = some 0 :=
  ⟨inPhase_inv .mix, by decide⟩

theorem witness_ResultStaysUntilNextCommand :
    let s : State := { State.reset with DONE := true, pins := [Pins.quiet, presentWait] }
    s.ph = .idle ∧ ∀ p ∈ s.pins, p.rst = false ∧ p.start = false := by decide

/-- With a command, no acknowledge and a changed input byte at the first of the edges. -/
theorem witness_SixteenHstepsArePrHash :
    let s : State := { inPhase .hstep with
      i := 15, pins := [{ presentEncode 3 with inAck := false, hostStores := [(0, 0x21)] }] }
    s.ph = .hstep ∧ s.i = 15 ∧ ∀ p ∈ s.pins.take 16, p.rst = false := by decide

/-- With a byte stored above the input and one stored as it is. -/
theorem witness_MixPassXorsTheFold :
    let s : State := { inPhase .mix with pins := [{ presentEncode 3 with hostStores := [(11, 0x21), (0, 0x6D)] }] }
    s.ph = .mix ∧ s.jm = 0 ∧ 0 < s.LEN ∧ Memory.wf s.IN = true ∧
      ∀ p ∈ s.pins.take s.LEN, p.inAck = true ∧ p.stable s.LEN s.readIN := by decide

/-- In round 0, in the last round, and with an empty input. -/
theorem witness_HashPassRewritesTheScratch :
    ∀ s ∈ ([{ inPhase .hstep with i := 15 }, { inPhase .hstep with i := 15, r := 4 },
        { inPhase .hstep with i := 15, LEN := 0, pins := [presentWait] }] : List State),
      s.ph = .hstep ∧ s.jw = 0 ∧ s.i = 15 ∧ s.r.val ≤ 4 ∧ ∀ p ∈ s.pins.take 136, p.rst = false := by decide

/-- Reads answered at the first `k` edges, as evaluation shows, and no more samples after them. -/
theorem readsAnswered_of_check {s : State} (k n : Nat)
    (hc : ((List.range k).all fun m => after (run m s) fun u => !u.inReq || u.edge.inAck) = true)
    (hk : s.pins.length ≤ k) : ReadsAnswered n s := by
  refine ReadsAnswered.of_first k n (fun m u hm hr hq => ?_) hk
  have h := List.all_eq_true.1 hc m (List.mem_range.2 hm)
  simpa [hr, after, hq] using h

/-- A host that acknowledges the one read of the first round only where it is asked for, then presents another command and
stores a byte above the input and the input byte as it is. -/
def asked : State :=
  { inPhase .idle with
    DONE := true
    pins := [{ presentEncode 1 with inAck := false }, Pins.quiet,
      { presentEncode 3 with inAck := false, hostStores := [(1, 0x21), (0, 0x6D)] }] }

theorem asked_answered (n : Nat) : ReadsAnswered n asked := readsAnswered_of_check 3 n (by decide +kernel) (by decide)

/-- An idle block that still holds an old result. -/
theorem witness_OperationDeliversTheEncodeResult :
    ∃ p rest, asked.ph = .idle ∧ asked.pins = p :: rest ∧ p.start = true ∧ Memory.wf asked.IN = true ∧
      (∀ q ∈ (p :: rest).take (5 * p.len + 697), q.stable p.len asked.readIN) ∧
      ReadsAnswered (5 * p.len + 697) asked ∧ 1 ≤ 701 ∧ 701 < 5 * p.len + 697 :=
  ⟨_, _, rfl, rfl, rfl, by decide, by decide, asked_answered _, by decide, by decide⟩

theorem witness_EveryOperationEnds :
    let p : Pins := { presentWait with hostStores := [(11, 0x21), (10, 0x64)] }
    let s : State := { inPhase .idle with DONE := true, pins := [presentEncode 11, p, presentWait] }
    s.ph = .idle ∧ s.pins = presentEncode 11 :: [p, presentWait] ∧ (presentEncode 11).start = true ∧
      Memory.wf s.IN = true ∧ (∀ q ∈ presentEncode 11 :: [p, presentWait], q.stable (presentEncode 11).len s.readIN) := by
  decide

/-- The host changes input bytes 0 and 1 while the operation runs. -/
theorem witness_ChangedInputStillGivesSixteenLetters :
    let p : Pins := { presentWait with hostStores := [(0, 0x00), (1, 0x00)] }
    let s : State := { inPhase .idle with DONE := true, pins := [presentEncode 11, p] }
    s.ph = .idle ∧ s.pins = presentEncode 11 :: [p] ∧ (presentEncode 11).start = true ∧
      (∀ q ∈ s.pins, q.rst = false) := by decide

/-- Two blocks with different pasts, different hosts, and different bytes from index 1 on. -/
theorem witness_ResultDependsOnInputAndTableOnly :
    let s' : State := { State.reset with IN := [(0, 0x6D)], pins := [presentEncode 1] }
    ∃ p rest p' rest', asked.ph = .idle ∧ asked.pins = p :: rest ∧ p.start = true ∧ Memory.wf asked.IN = true ∧
      (∀ q ∈ (p :: rest).take (5 * p.len + 697), q.stable p.len asked.readIN) ∧
      ReadsAnswered (5 * p.len + 697) asked ∧
      s'.ph = .idle ∧ s'.pins = p' :: rest' ∧ p'.start = true ∧ Memory.wf s'.IN = true ∧
      (∀ q ∈ (p' :: rest').take (5 * p'.len + 697), q.stable p'.len s'.readIN) ∧
      ReadsAnswered (5 * p'.len + 697) s' ∧ asked.cfg = s'.cfg ∧ p.len = p'.len ∧
      (∀ j : Nat, j < p.len → asked.readIN j = s'.readIN j) :=
  ⟨_, _, _, _, rfl, rfl, rfl, by decide, by decide, asked_answered _, rfl, rfl, rfl, by decide, by decide,
    readsAnswered_of_check 1 _ (by decide +kernel) (by decide), rfl, rfl, by decide⟩

theorem witness_EmptyInputReadsNothing :
    let s : State := { State.reset with pins := [presentEncode 0, presentWait] }
    s.ph = .idle ∧ s.pins = presentEncode 0 :: [presentWait] ∧ (presentEncode 0).rst = false ∧
      (presentEncode 0).start = true ∧ (presentEncode 0).len = 0 ∧ (∀ q ∈ [presentWait].take 696, q.rst = false) := by
  decide

/-- F1 and F5: one byte 00 has the fold of the empty input; so do 61, fifteen bytes 00, 61. -/
theorem witness_SameFoldSameResult :
    foldInput 0 (fun _ => 0) = foldInput 1 (fun _ => 0x00#8) ∧
    foldInput 0 (fun _ => 0) = foldInput 17 (fun j => if j % 16 = 0 then 0x61#8 else 0x00#8) ∧
    (∀ j : Nat, 11 ≤ j → (fun n : Nat => if n < 11 then 0x61#8 else 0x00#8) j = 0x00#8) := by
  refine ⟨by decide +kernel, by decide +kernel, ?_⟩
  intro j hj
  simp only
  rw [if_neg (by omega)]

/-! ## The procedure in the order that the kernel computes it, for the two tests below -/

/-- `f v`, the number `v` computed before the kernel goes on. -/
def strict {α : Type} {w : Nat} (v : BitVec w) (f : BitVec w → α) : α :=
  match v.toNat with
  | 0 => f 0
  | n + 1 => f (BitVec.ofNat w (n + 1))

theorem strict_eq {α : Type} {w : Nat} (v : BitVec w) (f : BitVec w → α) : strict v f = f v := by
  have hv : BitVec.ofNat w v.toNat = v := BitVec.ofNat_toNat w v ▸ BitVec.setWidth_eq v
  unfold strict
  split
  · next h => rw [h] at hv; exact congrArg f hv
  · next n h => rw [h] at hv; exact congrArg f hv

/-- `f S`, the sixteen bytes computed first. -/
def strictBytes {α : Type} (S : Bytes16) (f : Bytes16 → α) : α :=
  strict S[0] fun a => strict S[1] fun b => strict S[2] fun c => strict S[3] fun d =>
  strict S[4] fun e => strict S[5] fun g => strict S[6] fun h => strict S[7] fun i =>
  strict S[8] fun j => strict S[9] fun k => strict S[10] fun l => strict S[11] fun m =>
  strict S[12] fun n => strict S[13] fun o => strict S[14] fun p => strict S[15] fun q =>
  f #v[a, b, c, d, e, g, h, i, j, k, l, m, n, o, p, q]

theorem strictBytes_eq {α : Type} (S : Bytes16) (f : Bytes16 → α) : strictBytes S f = f S := by
  simp only [strictBytes, strict_eq]
  refine congrArg f (Vector.ext fun i hi => ?_)
  interval_cases i <;> rfl

/-- `f n`, the number `n` computed before the kernel goes on. -/
def strictNat {α : Type} (n : Nat) (f : Nat → α) : α :=
  match n with
  | 0 => f 0
  | n + 1 => f (n + 1)

/-- `n` steps of the bitwise rule of X2: halve, exclusive-or with 0xA001 where the bit dropped was 1. -/
def crcSteps : Nat → Nat → Nat
  | 0, v => v
  | n + 1, v => strictNat (v / 2 ^^^ 0xA001 * (v % 2)) (crcSteps n)

/-- X2: the embedded default table agrees with the generating rule, all 256 entries. -/
theorem test_table_matches_generating_rule : ∀ n : Fin 256, Config.default.LUT[n] = BitVec.ofNat 16 (crcSteps 8 n.val) := by
  decide +kernel

theorem readLUT_default (b : Byte) : readLUT Config.default b = BitVec.ofNat 16 (crcSteps 8 b.toNat) :=
  test_table_matches_generating_rule ⟨b.toNat, b.isLt⟩

/-- `prHashSteps` with the default table, each hash value computed before the next step. -/
def strictHash (S : Bytes16) : Nat → HashWord → HashWord
  | 0, h => h
  | n + 1, h => strict (strictHash S n h) fun g =>
    (g >>> 8) ^^^ BitVec.ofNat 16 (crcSteps 8 (lowByte g).toNat) ^^^ BitVec.ofNat 16 (crcSteps 8 S[15 - n].toNat)

theorem strictHash_eq (S : Bytes16) (n : Nat) (h : HashWord) : strictHash S n h = prHashSteps Config.default S n h := by
  induction n with
  | zero => rfl
  | succ n ih => simp only [strictHash, prHashSteps, hashStep, readLUT_default, strict_eq, ih]

/-- A list of `pr_hash` and rewrite pairs, each computed before the next. -/
def strictPass {α : Type} : List (Fin 8) → Work → (Work → α) → α
  | [], w, f => f w
  | n :: ns, w, f =>
    strict (strictHash w.scratch 16 w.hash) fun h =>
    strictBytes ((w.scratch.set (2 * n.val) (lowByte h)).set (2 * n.val + 1) (highByte h)) fun S =>
    strictPass ns { scratch := S, hash := h } f

theorem strictPass_eq {α : Type} (ns : List (Fin 8)) (w : Work) (f : Work → α) :
    strictPass ns w f = f (ns.foldl (hashRewrite Config.default) w) := by
  induction ns generalizing w with
  | nil => rfl
  | cons n ns ih =>
    simp only [strictPass, strict_eq, strictBytes_eq, ih, List.foldl_cons, strictHash_eq, hashRewrite, prHash]

/-- `mixInBytes`, each scratch register computed before the next byte. -/
def strictMix {α : Type} (input : Nat → Byte) : Nat → Bytes16 → (Bytes16 → α) → α
  | 0, S, f => f S
  | n + 1, S, f => strictMix input n S fun T =>
    strictBytes (T.set (scratchIndex n) (T[scratchIndex n] ^^^ input n)) f

theorem strictMix_eq {α : Type} (input : Nat → Byte) (n : Nat) (S : Bytes16) (f : Bytes16 → α) :
    strictMix input n S f = f (mixInBytes input n S) := by
  induction n generalizing f with
  | zero => rfl
  | succ n ih => simp only [strictMix, ih, strictBytes_eq, mixInBytes]

/-- The first `n` rounds, computed in order. -/
def strictRounds {α : Type} (len : Nat) (input : Nat → Byte) : Nat → (Work → α) → α
  | 0, f => f Work.start
  | n + 1, f => strictRounds len input n fun w =>
    strictMix input len w.scratch fun S => strictPass [0, 1, 2, 3, 4, 5, 6, 7] { w with scratch := S } f

theorem strictRounds_eq {α : Type} (len : Nat) (input : Nat → Byte) (n : Nat) (f : Work → α) :
    strictRounds len input n f = f (encodeRounds Config.default len input n) := by
  induction n generalizing f with
  | zero => rfl
  | succ n ih => simp only [strictRounds, ih, strictMix_eq, strictPass_eq, encodeRounds, encodeRound, hashPass]

/-- P-H1: `pr_hash` of the zero scratch from 0x0011. -/
theorem test_prHash_zero : prHash Config.default (Vector.replicate 16 0) 0x0011 = 0x5CCC := by
  rw [prHash, ← strictHash_eq]
  decide +kernel

/-- The source's one pinned vector (S1, E7): `encode("my-passw0rd")` = `lEsdklcFaOOjlbma`. -/
theorem test_source_vector :
    encodeBytes Config.default 11 (inputOf password) =
      #v[0x6C, 0x45, 0x73, 0x64, 0x6B, 0x6C, 0x63, 0x46, 0x61, 0x4F, 0x4F, 0x6A, 0x6C, 0x62, 0x6D, 0x61] := by
  have h : strictRounds 11 (inputOf password) 5 (fun w => decide (w.scratch =
      #v[0xBE, 0x45, 0xF3, 0x38, 0xA3, 0xB8, 0x2A, 0xC6, 0x0E, 0x4F, 0xCF, 0x9D, 0xB7, 0x1A, 0x6D, 0x00])) = true := by
    decide +kernel
  rw [strictRounds_eq, decide_eq_true_eq] at h
  rw [encodeBytes, Config.rounds, h]
  decide +kernel

end Sys2Proof.Tests
end

section
/-! PROOFS. What the invariant of R39 asks in each phase, that every micro-operation keeps it, and the progress of the
step: O23, O24, O22 and O27. -/

namespace Sys2Proof.Machine

/-! ### The characters of the result are letters (R162) -/

theorem isLetter_topNibble_add (b : Byte) : isLetter (topNibble b + Config.mapOffset) = true := by
  have hn : (topNibble b).toNat < 16 := by
    have hb := b.isLt
    simp only [topNibble, BitVec.toNat_ushiftRight, Nat.shiftRight_eq_div_pow]
    omega
  have hv : (topNibble b + Config.mapOffset).toNat = (topNibble b).toNat + 0x61 := by
    have ho : Config.mapOffset.toNat = 0x61 := rfl
    rw [BitVec.toNat_add, ho]
    omega
  simp only [isLetter, Bool.or_eq_true, Bool.and_eq_true, decide_eq_true_eq, BitVec.le_def, hv, BitVec.toNat_ofNat]
  omega

/-- R162: the mapper answers letters only. -/
theorem isLetter_mapByte (b : Byte) : isLetter (mapByte b) = true := by
  unfold mapByte
  split
  · assumption
  · exact isLetter_topNibble_add b

theorem isLetter_freeLetters (n : Nat) (m : Fin 16) : isLetter (freeLetters n)[m] = true := by
  simpa [freeLetters] using isLetter_mapByte (freeBytes n)[m]

/-- Settling a result of letters leaves letters, whether or not the host changed the input. -/
theorem isLetter_settleResult {s : State} (h : ∀ n : Fin 16, isLetter s.OUT[n] = true) (n : Fin 16) :
    isLetter s.settleResult.OUT[n] = true := by
  cases hc : s.inputChanged with
  | false =>
    rw [State.settleResult_stable hc]
    exact h n
  | true =>
    rw [State.settleResult_changed hc]
    exact isLetter_freeLetters s.fresh n

/-- `MAP k` after letters below `k` leaves letters up to and including `k` (R161). -/
theorem isLetter_writeOUT_mapByte {s : State} {k : Fin 16} {b : Byte}
    (h : ∀ n : Fin 16, n.val < k.val → isLetter s.OUT[n] = true) (n : Fin 16) (hn : n.val ≤ k.val) :
    isLetter (s.writeOUT k (mapByte b)).OUT[n] = true := by
  rw [State.writeOUT_read]
  split
  · exact isLetter_mapByte b
  · next hne => exact h n (by omega)

/-! ### What the invariant asks in each phase -/

section
variable {s : State}

theorem Inv.of_idle (hp : s.ph = .idle) (hl : s.DONE = true → ∀ n : Fin 16, isLetter s.OUT[n] = true)
    (hw : Memory.wf s.IN = true) : Inv s where
  round_le := by simp [hp]
  jm_lt := by simp [hp]
  jw_even := by simp [hp]
  done_idle _ := hp
  hash_kept := by simp [hp]
  mapped_letters := by simp [hp]
  done_letters := hl
  memory_wf := hw

theorem Inv.of_mix (hp : s.ph = .mix) (hr : s.r.val ≤ 4) (hj : s.jm < s.LEN) (hd : s.DONE = false)
    (hw : Memory.wf s.IN = true) : Inv s where
  round_le _ := hr
  jm_lt _ := hj
  jw_even := by simp [hp]
  done_idle := by simp [hd]
  hash_kept := by simp [hp]
  mapped_letters := by simp [hp]
  done_letters := by simp [hd]
  memory_wf := hw

theorem Inv.of_hash (hp : s.ph = .hstep ∨ s.ph = .rewr) (hr : s.r.val ≤ 4) (hj : s.jw.val % 2 = 0) (hd : s.DONE = false)
    (hw : Memory.wf s.IN = true) : Inv s where
  round_le _ := hr
  jm_lt := by rcases hp with hp | hp <;> simp [hp]
  jw_even _ := hj
  done_idle := by simp [hd]
  hash_kept := by rcases hp with hp | hp <;> simp [hp]
  mapped_letters := by rcases hp with hp | hp <;> simp [hp]
  done_letters := by simp [hd]
  memory_wf := hw

theorem Inv.of_map (hp : s.ph = .map) (hh : s.H = s.S[15] ++ s.S[14])
    (hl : ∀ n : Fin 16, n.val < s.k.val → isLetter s.OUT[n] = true) (hd : s.DONE = false)
    (hw : Memory.wf s.IN = true) : Inv s where
  round_le := by simp [hp]
  jm_lt := by simp [hp]
  jw_even := by simp [hp]
  done_idle := by simp [hd]
  hash_kept _ := hh
  mapped_letters _ := hl
  done_letters := by simp [hd]
  memory_wf := hw

theorem Inv.done_false (hi : Inv s) (hp : s.ph ≠ .idle) : s.DONE = false :=
  Bool.eq_false_iff.2 fun hd => hp (hi.done_idle hd)

/-! ### The invariant along the parts of an edge -/

/-- The invariant says nothing of the samples to come. -/
theorem Inv.pastEdge (hi : Inv s) : Inv s.pastEdge :=
  ⟨hi.round_le, hi.jm_lt, hi.jw_even, hi.done_idle, hi.hash_kept, hi.mapped_letters, hi.done_letters, hi.memory_wf⟩

theorem Inv.hostStore (hi : Inv s) (p : Pins) : Inv (s.hostStore p) :=
  ⟨hi.round_le, hi.jm_lt, hi.jw_even, hi.done_idle, hi.hash_kept, hi.mapped_letters, hi.done_letters,
    State.hostStore_wf p hi.memory_wf⟩

/-- Reset reaches the invariant from any state (R192). -/
theorem Inv.resetBlock (hw : Memory.wf s.IN = true) : Inv s.resetBlock :=
  .of_idle rfl (by simp) hw

theorem Inv.toHashPass (hr : s.r.val ≤ 4) (hd : s.DONE = false) (hw : Memory.wf s.IN = true) : Inv s.toHashPass :=
  .of_hash (.inl rfl) hr rfl hd hw

/-- A round starts in the invariant, with input bytes or without (R101, R107). -/
theorem Inv.toRound (hr : s.r.val ≤ 4) (hd : s.DONE = false) (hw : Memory.wf s.IN = true) : Inv s.toRound := by
  by_cases hl : s.LEN = 0
  · rw [State.toRound_empty hl]
    exact .toHashPass hr hd hw
  · rw [State.toRound_nonempty hl]
    exact .of_mix rfl hr (Nat.pos_of_ne_zero hl) hd hw

/-! ### Each operation keeps the invariant -/

theorem Inv.accept (hi : Inv s) (len : Nat) : Inv ((s.initialise len).clearDone.toRound) :=
  .toRound (by simp) rfl hi.memory_wf

theorem Inv.of_execMix {t : State} (hi : Inv s) (hp : s.ph = .mix) (h : execMix s.jm s = .next t) : Inv t := by
  have hr := hi.round_le (.inl hp)
  have hd := hi.done_false (by simp [hp])
  rcases execMix_cases h with ⟨_, rfl⟩ | ⟨hlt, rfl⟩
  · exact .toHashPass hr hd hi.memory_wf
  · exact .of_mix hp hr hlt hd hi.memory_wf

theorem Inv.of_execHstep {t : State} (hi : Inv s) (hp : s.ph = .hstep) (h : execHstep s.i s = .next t) : Inv t := by
  have hr := hi.round_le (.inr (.inl hp))
  have hj := hi.jw_even (.inl hp)
  have hd := hi.done_false (by simp [hp])
  rcases execHstep_cases h with ⟨_, rfl⟩ | ⟨_, rfl⟩
  · exact .of_hash (.inr rfl) hr hj hd hi.memory_wf
  · exact .of_hash (.inl hp) hr hj hd hi.memory_wf

/-- R148: `REWR 14` leaves `H` in the last two scratch bytes. -/
theorem State.rewrite_last_hash {n : Fin 16} (hn : n.val = 14) : s.H = (s.rewrite n).S[15] ++ (s.rewrite n).S[14] := by
  obtain rfl : n = 14 := Fin.ext hn
  have h15 : (s.rewrite 14).S[15] = highByte s.H := s.rewrite_read 14 15
  have h14 : (s.rewrite 14).S[14] = lowByte s.H := s.rewrite_read 14 14
  rw [h15, h14, highByte_append_lowByte]

theorem Inv.of_execRewr {t : State} (hi : Inv s) (hp : s.ph = .rewr) (h : execRewr s.jw s = .next t) : Inv t := by
  have hr := hi.round_le (.inr (.inr hp))
  have hd := hi.done_false (by simp [hp])
  obtain ⟨he, ⟨hlt, rfl⟩ | ⟨_, hr4, rfl⟩ | ⟨h14, _, rfl⟩⟩ := execRewr_cases h
  · have hj : (s.jw + 2).val % 2 = 0 := by
      have h2 : ((2 : Fin 16)).val = 2 := rfl
      rw [Fin.val_add]
      omega
    exact .of_hash (.inl rfl) hr hj hd hi.memory_wf
  · have hr' : (s.r + 1).val ≤ 4 := by
      have h1 : ((1 : Fin 8)).val = 1 := rfl
      rw [Fin.val_add]
      omega
    exact .toRound hr' hd hi.memory_wf
  · have hh : (s.rewrite s.jw).toMapPass.H = (s.rewrite s.jw).toMapPass.S[15] ++ (s.rewrite s.jw).toMapPass.S[14] := by
      rw [State.toMapPass_S, State.toMapPass_H, State.rewrite_H]
      exact State.rewrite_last_hash h14
    exact .of_map rfl hh (by simp) hd hi.memory_wf

theorem Inv.of_execMap {t : State} (hi : Inv s) (hp : s.ph = .map) (h : execMap s.k s = .next t) : Inv t := by
  have hd := hi.done_false (by simp [hp])
  have hl := isLetter_writeOUT_mapByte (b := s.S[s.k]) (hi.mapped_letters hp)
  rcases execMap_cases h with ⟨h15, rfl⟩ | ⟨h15, rfl⟩
  · exact .of_idle rfl (fun _ => isLetter_settleResult fun n => hl n (by omega)) (by simpa using hi.memory_wf)
  · have hk : (s.k + 1).val = s.k.val + 1 := by
      have h1 : ((1 : Fin 16)).val = 1 := rfl
      rw [Fin.val_add]
      omega
    refine .of_map hp (hi.hash_kept hp) (fun n hn => ?_) hd hi.memory_wf
    exact hl n (by simp only [State.setK_k] at hn; omega)

/-- Everything an edge can do keeps the invariant. -/
theorem step_keeps_inv {t : State} (hi : Inv s) (h : step s = .next t) : Inv t := by
  have hq := hi.pastEdge
  rcases step_cases h with ⟨_, rfl⟩ | ⟨_, h⟩
  · exact (Inv.resetBlock hq.memory_wf).hostStore _
  rcases h with ⟨_, _, rfl⟩ | ⟨_, _, rfl⟩ | ⟨_, _, rfl⟩ | ⟨hp, _, u, hu, rfl⟩ | ⟨hp, u, hu, rfl⟩ | ⟨hp, u, hu, rfl⟩ |
    ⟨hp, u, hu, rfl⟩
  · exact hq.hostStore _
  · exact (hq.accept _).hostStore _
  · exact hq.hostStore _
  · exact (hq.of_execMix hp hu).hostStore _
  · exact (hq.of_execHstep hp hu).hostStore _
  · exact (hq.of_execRewr hp hu).hostStore _
  · exact (hq.of_execMap hp hu).hostStore _

/-! ### Progress -/

theorem exists_execMix (h : s.jm < s.LEN) : ∃ t, execMix s.jm s = .next t := by
  rcases Nat.lt_or_eq_of_le (Nat.succ_le_of_lt h) with hm | hm
  · exact ⟨_, execMix_more hm⟩
  · exact ⟨_, execMix_last hm⟩

theorem exists_execRewr (he : s.jw.val % 2 = 0) (hr : s.r.val ≤ 4) : ∃ t, execRewr s.jw s = .next t := by
  by_cases hj : s.jw.val < 14
  · exact ⟨_, execRewr_more he hj⟩
  · rcases Nat.lt_or_eq_of_le hr with hr | hr
    · exact ⟨_, execRewr_round he hj hr⟩
    · exact ⟨_, execRewr_final he hj hr⟩

/-- R170: the step answers a next state wherever the invariant holds. -/
theorem exists_step_of_inv (hi : Inv s) : ∃ t, step s = .next t := by
  cases hr : s.edge.rst with
  | true => exact ⟨_, step_rst hr⟩
  | false =>
    cases hp : s.ph with
    | idle =>
      cases hs : s.edge.start with
      | false => exact ⟨_, step_idle_nop hp hr hs⟩
      | true => exact ⟨_, step_idle_encode hp hr hs⟩
    | mix =>
      cases ha : s.edge.inAck with
      | false => exact ⟨_, step_wait hr (waiting_of_noAck hp ha)⟩
      | true =>
        obtain ⟨u, hu⟩ := exists_execMix (s := s.pastEdge) (hi.jm_lt hp)
        exact ⟨_, (step_mix hp hr ha).trans (congrArg (afterEdge s.edge) hu)⟩
    | hstep => exact ⟨_, step_hstep hp hr⟩
    | rewr =>
      have he := hi.jw_even (.inr hp)
      obtain ⟨u, hu⟩ := exists_execRewr (s := s.pastEdge) he (hi.round_le (.inr (.inr hp)))
      exact ⟨_, (step_rewr hp hr he).trans (congrArg (afterEdge s.edge) hu)⟩
    | map => exact ⟨_, step_map hp hr⟩

/-- R39 by induction over the edges: a run from the invariant goes on, and stays in it. -/
theorem exists_run_of_inv (n : Nat) (hi : Inv s) : ∃ t, run n s = .next t ∧ Inv t := by
  induction n generalizing s with
  | zero => exact ⟨s, rfl, hi⟩
  | succ n ih =>
    obtain ⟨u, hu⟩ := exists_step_of_inv hi
    rw [run_succ_of_step hu]
    exact ih (step_keeps_inv hi hu)

end

/-- The reset state with any table, canonical input space and host. -/
theorem inv_reset_with (c : Config) {m : Memory} (ps : List Pins) (hm : Memory.wf m = true) :
    Inv { State.reset with cfg := c, IN := m, pins := ps } :=
  .of_idle rfl (fun hd => absurd hd Bool.false_ne_true) hm

/-! ### The obligations -/

/-- Settles O23: the case split over what an edge can do, one lemma per operation. -/
theorem invariantKeptByEveryStep : Obligations.InvariantKeptByEveryStep :=
  fun _ _ => step_keeps_inv

/-- Settles O24: progress from the invariant, and the induction over the edges of a run. -/
theorem everyReachableStateHasANextState : Obligations.EveryReachableStateHasANextState :=
  ⟨(nomatch ·), fun _ => exists_step_of_inv, fun n c _ ps hm => exists_run_of_inv n (inv_reset_with c ps hm)⟩

/-- Settles O22: both states are idle with `DONE` = 0. -/
theorem invariantHoldsAtReset : Obligations.InvariantHoldsAtReset :=
  ⟨inv_reset_with Config.default [] rfl, fun s hr hw =>
    ⟨_, step_rst hr, (Inv.resetBlock (s := s.pastEdge) hw).hostStore _⟩⟩

/-- Settles O27: `DONE` = 1 means `IDLE`, and a request is a `MIX`, whose index the invariant bounds. -/
theorem busyAndDoneAreNeverTogether : Obligations.BusyAndDoneAreNeverTogether := by
  refine fun s hi => ⟨fun ⟨hb, hd⟩ => ?_, fun j hj => ?_⟩
  · have hp : s.ph = .idle := hi.done_idle hd
    simp [State.busy, hp] at hb
  · obtain ⟨hp, rfl⟩ : s.ph = .mix ∧ s.jm = j := by simpa [State.inIdx, State.inReq] using hj
    exact hi.jm_lt hp

end Sys2Proof.Machine
end

section
/-! PROOFS. Which registers an edge writes, what a reset edge and an excluded operand leave, and the port `out_chars`: O26,
O12, O18, O21 and O29. -/

namespace Sys2Proof.Machine

/-! ### Excluded operands (log entry 9) -/

theorem execMix_outside {s : State} {jm : Nat} (h : s.LEN ≤ jm) : execMix jm s = .refused .inputIndexOutsideIN :=
  if_neg (Nat.not_lt.2 h)

theorem execRewr_odd {s : State} {n : Fin 16} (h : n.val % 2 = 1) : execRewr n s = .refused .rewriteIndexOdd := by
  simp [execRewr, isRewriteIndex, h]

theorem execRewr_roundAboveFour {s : State} (h : 4 < s.r.val) : execRewr 14 s = .refused .roundAboveFour := by
  simp [execRewr, isRewriteIndex, show ¬ s.r.val < 4 by omega, show s.r.val ≠ 4 by omega]

theorem step_rewr_odd {s : State} (hp : s.ph = .rewr) (hj : s.jw.val % 2 = 1) (hr : s.edge.rst = false) :
    step s = .refused (.noSuchOperation .rewriteIndexOdd) := by
  simp [step, hr, waiting_of_ph (s := s) (by simp [hp]), decode_fetch_rewr_odd hp hj, afterEdge]

/-- Settles O12: one refusal per excluded operand. -/
theorem excludedOperandsAreStuck : Obligations.ExcludedOperandsAreStuck :=
  ⟨fun _ _ => execMix_outside, fun _ _ => execRewr_odd, fun _ => execRewr_roundAboveFour, fun _ => step_rewr_odd⟩

/-! ### Reset -/

/-- Settles O18: the state after the edge is `resetBlock`, which draws 32 values. -/
theorem resetEdgeLeavesFreeValues : Obligations.ResetEdgeLeavesFreeValues := fun s hr =>
  ⟨_, step_rst hr, rfl, rfl, rfl, rfl, rfl, rfl, rfl, rfl, rfl, by simp⟩

/-- Settles O21: the ports of the reset state follow from `ph` and `DONE`. -/
theorem resetStateIsIdleAndNotDone : Obligations.ResetStateIsIdleAndNotDone :=
  ⟨rfl, rfl, rfl, rfl, rfl, rfl⟩

/-! ### Who writes each register (R20) -/

/-- Settles O26: the case split over what an edge can do; in each case a register outside the operation's own reads as
before. -/
theorem registersChangeOnlyByTheirWriters : Obligations.RegistersChangeOnlyByTheirWriters := by
  intro s t h hr
  obtain ⟨hr', _⟩ | ⟨_, h⟩ := step_cases h
  · simp [hr] at hr'
  rcases h with ⟨hp, _, rfl⟩ | ⟨hp, hs, rfl⟩ | ⟨hp, _, rfl⟩ | ⟨hp, ha, u, hu, rfl⟩ | ⟨hp, u, hu, rfl⟩ | ⟨hp, u, hu, rfl⟩ |
    ⟨hp, u, hu, rfl⟩
  · simp
  · simp [hp, hs, waiting_of_ph]
  · simp
  · rcases execMix_cases hu with ⟨_, rfl⟩ | ⟨_, rfl⟩ <;> simp [hp, waiting_of_ack ha]
  · rcases execHstep_cases hu with ⟨_, rfl⟩ | ⟨_, rfl⟩ <;> simp [hp, waiting_of_ph]
  · obtain ⟨_, ⟨_, rfl⟩ | ⟨hj, _, rfl⟩ | ⟨hj, _, rfl⟩⟩ := execRewr_cases hu <;> simp [waiting_of_ph, *]
  · rcases execMap_cases hu with ⟨hk, rfl⟩ | ⟨_, rfl⟩ <;> simp [waiting_of_ph, *]

/-! ### The port `out_chars` (R33, R58) -/

theorem packBytes_cons_low (b : Byte) (bs : List Byte) : (packBytes (b :: bs)).extractLsb' 0 8 = b := by
  ext j hj
  simp [packBytes, hj, show j < 128 by omega]

theorem packBytes_cons_high (b : Byte) (bs : List Byte) {k : Nat} (hk : k + 1 < 16) :
    (packBytes (b :: bs)).extractLsb' (8 * (k + 1)) 8 = (packBytes bs).extractLsb' (8 * k) 8 := by
  refine BitVec.eq_of_getLsbD_eq fun j hj => ?_
  have hlow : b.getLsbD (8 * (k + 1) + j) = false := b.getLsbD_of_ge _ (by omega)
  have hsub : 8 * (k + 1) + j - 8 = 8 * k + j := by omega
  have hhigh : (packBytes (b :: bs)).getLsbD (8 * (k + 1) + j) = (packBytes bs).getLsbD (8 * k + j) := by
    rw [packBytes, BitVec.getLsbD_or, BitVec.getLsbD_shiftLeft, BitVec.getLsbD_setWidth, hlow, hsub]
    simp only [show 8 * (k + 1) + j < 128 by omega, show ¬ 8 * (k + 1) + j < 8 by omega, decide_true, decide_false,
      Bool.not_false, Bool.true_and, Bool.and_false, Bool.or_false]
  rw [BitVec.getLsbD_extractLsb', BitVec.getLsbD_extractLsb', hhigh]

/-- Byte `k` of a packed list, for the sixteen bytes the port has room for. -/
theorem packBytes_extract (bs : List Byte) (k : Nat) (hk : k < bs.length) (h16 : k < 16) :
    (packBytes bs).extractLsb' (8 * k) 8 = bs[k] := by
  induction bs generalizing k with
  | nil => exact absurd hk (Nat.not_lt_zero k)
  | cons b bs ih =>
    cases k with
    | zero => exact packBytes_cons_low b bs
    | succ k =>
      rw [packBytes_cons_high b bs h16]
      exact ih k (Nat.lt_of_succ_lt_succ hk) (Nat.lt_of_succ_lt h16)

/-- Settles O29: the port packs the sixteen bytes of `OUT`. -/
theorem outCharsHoldsCharacterKAtByteK : Obligations.OutCharsHoldsCharacterKAtByteK := fun s k =>
  (packBytes_extract s.OUT.toList k.val (by simp) k.isLt).trans (by simp)

end Sys2Proof.Machine
end

section
/-! PROOFS. What lies outside the block, the table, the input space and the samples to come, is written by no operation; at
an edge only the host's own stores change it: O25 and O20. -/

namespace Sys2Proof.Machine

/-- `t` has the table, the input space and the samples to come of `s`: what the block reads but has no port to write
(R26, R38, R53). -/
structure SameSurroundings (s t : State) : Prop where
  cfg : t.cfg = s.cfg
  IN : t.IN = s.IN
  pins : t.pins = s.pins

/-! ### Each operation leaves the surroundings -/

section
variable {s t : State}

theorem SameSurroundings.refl (s : State) : SameSurroundings s s := ⟨rfl, rfl, rfl⟩

theorem SameSurroundings.readIN (h : SameSurroundings s t) (a : Nat) : t.readIN a = s.readIN a :=
  congrArg (Memory.read · a) h.IN

theorem SameSurroundings.accept (s : State) (len : Nat) : SameSurroundings s (s.initialise len).clearDone.toRound := by
  constructor <;> simp

theorem SameSurroundings.of_execEncode {len : Nat} (h : execEncode len s = .next t) : SameSurroundings s t := by
  by_cases hp : s.ph = .idle
  · rw [execEncode_idle len hp] at h
    cases h
    exact .accept s len
  · rw [execEncode_busy len hp] at h
    cases h
    exact .refl _

theorem SameSurroundings.of_execMix {jm : Nat} (h : execMix jm s = .next t) : SameSurroundings s t := by
  rcases execMix_cases h with ⟨_, rfl⟩ | ⟨_, rfl⟩ <;> constructor <;> simp

theorem SameSurroundings.of_execHstep {i : Fin 16} (h : execHstep i s = .next t) : SameSurroundings s t := by
  rcases execHstep_cases h with ⟨_, rfl⟩ | ⟨_, rfl⟩ <;> constructor <;> simp

theorem SameSurroundings.of_execRewr {n : Fin 16} (h : execRewr n s = .next t) : SameSurroundings s t := by
  obtain ⟨_, ⟨_, rfl⟩ | ⟨_, _, rfl⟩ | ⟨_, _, rfl⟩⟩ := execRewr_cases h <;> constructor <;> simp

theorem SameSurroundings.of_execMap {k : Fin 16} (h : execMap k s = .next t) : SameSurroundings s t := by
  rcases execMap_cases h with ⟨_, rfl⟩ | ⟨_, rfl⟩ <;> constructor <;> simp

theorem SameSurroundings.of_exec {i : Instr} (h : exec i s = .next t) : SameSurroundings s t := by
  cases i with
  | nop => cases h; exact .refl _
  | encode len => exact .of_execEncode h
  | idle => cases h; exact .refl _
  | mix jm => exact .of_execMix h
  | hstep n => exact .of_execHstep h
  | rewr jw => exact .of_execRewr h
  | map k => exact .of_execMap h

/-! ### An edge -/

/-- R53 at an edge: what the block does there, a reset too, leaves the surroundings; the host's stores come after it. -/
theorem step_eq_hostStore_of_sameSurroundings (h : step s = .next t) :
    ∃ u, SameSurroundings s.pastEdge u ∧ t = u.hostStore s.edge := by
  rcases step_cases h with ⟨_, rfl⟩ | ⟨_, h⟩
  · exact ⟨_, ⟨by simp, by simp, by simp⟩, rfl⟩
  rcases h with ⟨_, _, rfl⟩ | ⟨_, _, rfl⟩ | ⟨_, _, rfl⟩ | ⟨_, _, u, hu, rfl⟩ | ⟨_, u, hu, rfl⟩ | ⟨_, u, hu, rfl⟩ |
    ⟨_, u, hu, rfl⟩
  · exact ⟨_, .refl _, rfl⟩
  · exact ⟨_, .accept _ _, rfl⟩
  · exact ⟨_, .refl _, rfl⟩
  · exact ⟨u, .of_execMix hu, rfl⟩
  · exact ⟨u, .of_execHstep hu, rfl⟩
  · exact ⟨u, .of_execRewr hu, rfl⟩
  · exact ⟨u, .of_execMap hu, rfl⟩

/-- An index the host stores nothing at reads as before. Where it stores nothing at all the form of `IN` does not matter. -/
theorem State.hostStore_readIN_unstored {p : Pins} {a : Nat} (hw : p.hostStores = [] ∨ Memory.wf s.IN = true)
    (ha : ∀ c ∈ p.hostStores, c.1 ≠ a) : (s.hostStore p).readIN a = s.readIN a := by
  rcases hw with hnone | hwf
  · rw [State.hostStore_none hnone]
  · exact State.hostStore_readIN hwf fun c hc hca => absurd hca (ha c hc)

end

/-! ### The obligations -/

/-- Settles O25: one lemma per operation; an edge is the block's part, which leaves the surroundings, and then the host's
stores. -/
theorem blockWritesNoMemory : Obligations.BlockWritesNoMemory := by
  refine ⟨fun i s t h => ?_, fun s t h => ?_⟩
  · have hsame := SameSurroundings.of_exec h
    exact ⟨hsame.cfg, hsame.readIN, hsame.pins⟩
  · obtain ⟨u, hsame, rfl⟩ := step_eq_hostStore_of_sameSurroundings h
    have hIN : u.IN = s.IN := hsame.IN
    refine ⟨hsame.cfg, fun hw a ha => ?_⟩
    rw [State.hostStore_readIN_unstored (by rwa [hIN]) ha]
    exact hsame.readIN a

/-- Settles O20: the last cell of an index is read back, the other indices are left, and `hostStore` writes `IN` and
`inputChanged` only. -/
theorem hostStoreIsReadBack : Obligations.HostStoreIsReadBack := by
  refine fun s p hw => ⟨fun before after a b hp hlast => ?_, fun a => State.hostStore_readIN_unstored (.inr hw),
    State.hostStore_wf p hw, rfl⟩
  rw [State.readIN, State.hostStore_IN, hp]
  exact Memory.read_writeAll_last hw before after hlast

end Sys2Proof.Machine
end

section
/-! PROOFS. The two formats in both directions, the reserved phase codes, and the step as the meaning of what it decodes:
O1, O2, O3 and O15. -/

namespace Sys2Proof

/-! ### The operand fields, read backwards -/

/-- An index operand is read as its own value, so no bit of it is lost (R82). -/
theorem val_of_decodeIndex {x : Nat} {n : Fin 16} (h : decodeIndex x = .ok n) : n.val = x := by
  unfold decodeIndex at h
  split at h <;> cases h
  rfl

theorem val_and_even_of_decodeRewriteIndex {x : Nat} {n : Fin 16} (h : decodeRewriteIndex x = .ok n) :
    n.val = x ∧ n.val % 2 = 0 := by
  unfold decodeRewriteIndex at h
  split at h
  next hx =>
    split at h <;> cases h
    exact ⟨val_of_decodeIndex hx, ‹_›⟩
  next => cases h

/-- An operation built from a decoded operand has an operand that decodes. -/
theorem exists_of_map_eq_ok {ε α β : Type} {f : α → β} {x : Except ε α} {b : β} (h : x.map f = .ok b) :
    ∃ a, x = .ok a ∧ b = f a := by
  cases x with
  | ok a => exact ⟨a, rfl, by simpa [Except.map] using h.symm⟩
  | error e => cases h

/-! ### The phase field (R82, R86) -/

theorem phaseField_eq_of_lt {c : BitVec 3} (h : c.toNat < 5) :
    c = 0b000#3 ∨ c = 0b001#3 ∨ c = 0b010#3 ∨ c = 0b011#3 ∨ c = 0b100#3 := by
  bv_omega

theorem phaseField_eq_of_reserved {c : BitVec 3} (h : 5 ≤ c.toNat) : c = 0b101#3 ∨ c = 0b110#3 ∨ c = 0b111#3 := by
  bv_omega

theorem decode_uop_reserved {c : BitVec 3} (x : Nat) (h : 5 ≤ c.toNat) : decode (.uop c x) = .error .reservedPhase := by
  rcases phaseField_eq_of_reserved h with rfl | rfl | rfl <;> rfl

theorem toNat_phaseCode_lt (q : Machine.Phase) : q.code.toNat < 5 := by
  cases q <;> decide

/-! ### What a code that decodes is -/

/-- `i` is one the formats admit, and `c` is its code but for what the formats ignore: the `len` of `NOP` (R80) and the
operand of `IDLE` (R82). -/
structure Decoded (c : Code) (i : Instr) : Prop where
  wf : i.wf = true
  code : i ≠ .nop → i ≠ .idle → encode i = c

/-- Every command word is a command: bit 0 is `op`, the rest is `len` (R80, R86). -/
theorem decode_cmd (w : Nat) : decode (.cmd w) = .ok (if w % 2 = 1 then .encode (w / 2) else .nop) := by
  simp [decode, decodeCommand, commandOp, commandLen]

theorem Decoded.of_cmd {w : Nat} {i : Instr} (h : decode (.cmd w) = .ok i) : Decoded (.cmd w) i := by
  rw [← commandWord_fields w] at h ⊢
  rw [decode_command] at h
  cases hop : commandOp w with
  | false =>
    rw [hop] at h
    cases h
    exact ⟨rfl, fun hn => absurd rfl hn⟩
  | true =>
    rw [hop] at h
    cases h
    exact ⟨rfl, fun _ _ => rfl⟩

/-- One case for each phase code that is not reserved. -/
theorem Decoded.of_uop {c : BitVec 3} {x : Nat} {i : Instr} (h : decode (.uop c x) = .ok i) : Decoded (.uop c x) i := by
  by_cases hc : 5 ≤ c.toNat
  · rw [decode_uop_reserved x hc] at h
    cases h
  rcases phaseField_eq_of_lt (Nat.not_le.1 hc) with rfl | rfl | rfl | rfl | rfl
  case inl =>
    cases h
    exact ⟨rfl, fun _ hi => absurd rfl hi⟩
  case inr.inl =>
    cases h
    exact ⟨rfl, fun _ _ => rfl⟩
  case inr.inr.inl =>
    obtain ⟨n, hn, rfl⟩ := exists_of_map_eq_ok (x := decodeIndex x) h
    obtain rfl := val_of_decodeIndex hn
    exact ⟨rfl, fun _ _ => rfl⟩
  case inr.inr.inr.inl =>
    obtain ⟨n, hn, rfl⟩ := exists_of_map_eq_ok (x := decodeRewriteIndex x) h
    obtain ⟨rfl, he⟩ := val_and_even_of_decodeRewriteIndex hn
    exact ⟨by simpa [Instr.wf] using he, fun _ _ => rfl⟩
  case inr.inr.inr.inr =>
    obtain ⟨n, hn, rfl⟩ := exists_of_map_eq_ok (x := decodeIndex x) h
    obtain rfl := val_of_decodeIndex hn
    exact ⟨rfl, fun _ _ => rfl⟩

theorem decoded_of_decode {c : Code} {i : Instr} (h : decode c = .ok i) : Decoded c i := by
  cases c with
  | cmd w => exact .of_cmd h
  | uop ph x => exact .of_uop h

theorem decode_encode {i : Instr} (h : i.wf = true) : decode (encode i) = .ok i := by
  cases i with
  | nop => exact Laws.CodeRoundTrip.nop h
  | encode len => exact Laws.CodeRoundTrip.encode len h
  | idle => exact Laws.CodeRoundTrip.idle h
  | mix jm => exact Laws.CodeRoundTrip.mix jm h
  | hstep n => exact Laws.CodeRoundTrip.hstep n h
  | rewr jw => exact Laws.CodeRoundTrip.rewr jw h
  | map k => exact Laws.CodeRoundTrip.map k h

/-! ### The obligations -/

/-- Settles O1: the round trip is one lemma per operation, and the converse one case per format and phase code. -/
theorem decodeAndEncodeAgree : Obligations.DecodeAndEncodeAgree :=
  ⟨fun _ => decode_encode, fun _ _ h => (decoded_of_decode h).wf, fun _ _ h => (decoded_of_decode h).code⟩

/-- Settles O2: the two fields of a command word, the three reserved codes, and the codes of the five phases. -/
theorem reservedPhaseCodesAreRefused : Obligations.ReservedPhaseCodesAreRefused :=
  ⟨decode_cmd, fun _ => decode_uop_reserved, toNat_phaseCode_lt⟩

/-- Settles O3: each code is the format's, filled in with the operand, so its decoding lemma applies. -/
theorem codesOfTheSpecDecode : Obligations.CodesOfTheSpecDecode :=
  ⟨decode_command false 0, decode_command true 0, decode_command true 11, decode_command true 20, decode_uop_idle 0,
    decode_uop_mix 19, decode_uop_hstep 15, decode_uop_rewr (n := 14) rfl, decode_uop_map 7⟩

end Sys2Proof

namespace Sys2Proof.Machine

/-- A stop of the operation is a stop of the edge: no store of the host comes after it. -/
@[simp] theorem afterEdge_refused (p : Pins) (e : Refusal) : afterEdge p (.refused e) = .refused e := rfl

/-- Settles O15: the edge is the decoded operation (R104), and the host's stores follow a next state only. -/
theorem stepRunsTheDecodedOperation : Obligations.StepRunsTheDecodedOperation := by
  intro s i hd _ hr hw
  have hstep : step s = afterEdge s.edge (exec i s.pastEdge) := step_decoded hr hw hd
  refine ⟨fun t ht => ?_, fun e he => ?_⟩
  · rw [hstep, ht, afterEdge_next]
  · rw [hstep, he, afterEdge_refused]

end Sys2Proof.Machine
end

section
/-! PROOFS. The two host commands at the operation and at the edge, the operation each phase enables, and the result kept in
`IDLE`: O4, O5, O6, O7, O16 and O28. -/

namespace Sys2Proof.Machine

/-! ### Which operation an edge performs (R82, R87, R104) -/

section
variable {s : State}

theorem decode_fetch_idle (hp : s.ph = .idle) :
    ∃ i, decode s.fetch = .ok i ∧ (i = .idle ∨ i = .nop ∨ ∃ len, i = .encode len) := by
  cases hpins : s.pins with
  | nil => exact ⟨.idle, by simp [State.fetch, hp, hpins, Phase.code], .inl rfl⟩
  | cons p rest =>
    have hd : decode s.fetch = .ok (if p.start then .encode p.len else .nop) := by
      simp [State.fetch, hp, hpins, Pins.command]
    cases hs : p.start with
    | false => exact ⟨.nop, by simpa [hs] using hd, .inr (.inl rfl)⟩
    | true => exact ⟨.encode p.len, by simpa [hs] using hd, .inr (.inr ⟨p.len, rfl⟩)⟩

theorem decode_fetch_mix (hp : s.ph = .mix) : decode s.fetch = .ok (.mix s.jm) := by
  simp [State.fetch, hp, Phase.code]

theorem decode_fetch_hstep (hp : s.ph = .hstep) : decode s.fetch = .ok (.hstep s.i) := by
  simp [State.fetch, hp, Phase.code]

theorem decode_fetch_rewr (hp : s.ph = .rewr) (he : s.jw.val % 2 = 0) : decode s.fetch = .ok (.rewr s.jw) := by
  simpa [State.fetch, hp, Phase.code] using decode_uop_rewr he

theorem decode_fetch_map (hp : s.ph = .map) : decode s.fetch = .ok (.map s.k) := by
  simp [State.fetch, hp, Phase.code]

/-- A busy block performs a micro-operation, whatever command is presented (R100, R102). -/
theorem exists_decode_fetch_of_busy (hi : Inv s) (hb : s.ph ≠ .idle) :
    ∃ i, decode s.fetch = .ok i ∧ i ≠ .nop ∧ i ≠ .idle := by
  cases hp : s.ph with
  | idle => exact absurd hp hb
  | mix => exact ⟨_, decode_fetch_mix hp, nofun, nofun⟩
  | hstep => exact ⟨_, decode_fetch_hstep hp, nofun, nofun⟩
  | rewr => exact ⟨_, decode_fetch_rewr hp (hi.jw_even (.inr hp)), nofun, nofun⟩
  | map => exact ⟨_, decode_fetch_map hp, nofun, nofun⟩

/-- Outside `IDLE` the command port is not looked at (R87). -/
theorem fetch_setPins (ps : List Pins) (hb : s.ph ≠ .idle) : State.fetch { s with pins := ps } = s.fetch := by
  cases hp : s.ph with
  | idle => exact absurd hp hb
  | mix => simp [State.fetch, hp]
  | hstep => simp [State.fetch, hp]
  | rewr => simp [State.fetch, hp]
  | map => simp [State.fetch, hp]

/-- Of a sample, what follows the block's part of the edge takes the stores only. -/
theorem afterEdge_congr {p q : Pins} (h : p.hostStores = q.hostStores) (o : Host.Outcome State Fault Refusal) :
    afterEdge p o = afterEdge q o := by
  cases o with
  | next t => simp [State.hostStore, h]
  | fault e => cases e
  | refused e => rfl

/-- All that an edge takes from the state and from the sample presented there. -/
theorem step_congr {t : State} (hf : s.fetch = t.fetch) (hr : s.edge.rst = t.edge.rst) (hw : s.waiting = t.waiting)
    (hp : s.pastEdge = t.pastEdge) (hh : s.edge.hostStores = t.edge.hostStores) : step s = step t := by
  unfold step
  rw [afterEdge_congr hh, hf, hr, hw, hp]

theorem busy_iff : s.busy = true ↔ s.ph ≠ .idle := by simp [State.busy]

/-! ### An accepted command -/

theorem toRound_ph_ne_idle (s : State) : s.toRound.ph ≠ .idle := by
  by_cases hl : s.LEN = 0
  · simp [State.toRound_empty hl]
  · simp [State.toRound_nonempty hl]

end

/-! ### The obligations on the commands -/

/-- Settles O16: one decoding lemma per phase. -/
theorem phaseSelectsTheEnabledOperation : Obligations.PhaseSelectsTheEnabledOperation := fun _ =>
  ⟨decode_fetch_idle, decode_fetch_mix, decode_fetch_hstep, decode_fetch_rewr, decode_fetch_map⟩

/-- Settles O4: a word with `op` = 0 is `NOP`, and a busy block decodes a micro-operation, which the edge performs. -/
theorem nopChangesNothing : Obligations.NopChangesNothing := by
  refine ⟨fun len => decode_command false len, fun _ => rfl, fun s p rest hi hpins hb _ hr hw => ?_⟩
  obtain ⟨i, hd, hnop, hidle⟩ := exists_decode_fetch_of_busy hi (busy_iff.1 hb)
  obtain rfl : s.edge = p := State.edge_cons hpins
  exact ⟨i, hd, hnop, hidle, step_decoded hr hw hd⟩

/-- Settles O5: refused outside `IDLE`; in `IDLE` the next state is `initialise` with the start of a round, which depends on
whether `len` is 0. -/
theorem encodeInIdleInitialises : Obligations.EncodeInIdleInitialises := by
  refine ⟨fun len => decode_command true len, fun _ len => execEncode_busy len, fun s len hp => ?_⟩
  have hS : ∀ n : Fin 16, (s.initialise len).clearDone.toRound.S[n] = 0x00#8 := by simp [Config.scratchInit]
  have hsame := SameSurroundings.accept s len
  refine ⟨_, execEncode_idle len hp, hS, by simp [Config.hashInit], by simp, by simp, by simp, ?_,
    busy_iff.2 (toRound_ph_ne_idle _), by simp, by simp, hsame.cfg, hsame.readIN, hsame.pins, by simp, by simp⟩
  split
  next hl => simp [State.toRound_empty (s := (s.initialise len).clearDone) hl]
  next hl => simp [State.toRound_nonempty (s := (s.initialise len).clearDone) hl]

/-- Settles O6: a busy block fetches its micro-operation without the command port, and all else an edge takes from a sample
are `rst`, `in_ack` and the stores. -/
theorem encodeWhileBusyHasNoEffect : Obligations.EncodeWhileBusyHasNoEffect := by
  refine ⟨fun _ len => execEncode_busy len, fun s p rest start len hb => ?_, fun s p rest hp hpins hr hs => ?_⟩
  · exact step_congr ((fetch_setPins _ hb).trans (fetch_setPins _ hb).symm) rfl rfl rfl rfl
  · obtain rfl : s.edge = p := State.edge_cons hpins
    rw [step_idle_encode hp hr hs]
    simp only [exec]
    rw [execEncode_idle _ (by simpa using hp), afterEdge_next]

/-- Settles O7: with no sample the edge is the row `IDLE`, with a sample without `ENCODE` it is `NOP`. -/
theorem idleChangesNothing : Obligations.IdleChangesNothing := by
  refine ⟨decode_uop_idle 0, fun _ => rfl, fun s hp => ⟨by simp [State.busy, hp], by simp [State.inReq, hp]⟩,
    fun _ => step_idle_quiet, fun s p rest hp hpins hr hs => ?_⟩
  obtain rfl : s.edge = p := State.edge_cons hpins
  exact step_idle_nop hp hr hs

/-! ### The result while the block is idle (R112) -/

/-- Settles O28: by induction on the edges; each is an edge in `IDLE` without reset and without `ENCODE`, which leaves the
block as it is. -/
theorem resultStaysUntilNextCommand : Obligations.ResultStaysUntilNextCommand := by
  intro n
  induction n with
  | zero => exact fun s hp _ => ⟨s, rfl, hp, rfl, rfl, rfl, rfl⟩
  | succ n ih =>
    intro s hp hpins
    obtain ⟨hr, hs⟩ : s.edge.rst = false ∧ s.edge.start = false :=
      State.edge_of_take (P := fun p => p.rst = false ∧ p.start = false) (n := n) ⟨rfl, rfl⟩
        fun p hm => hpins p (List.mem_of_mem_take hm)
    have hstep := step_idle_nop hp hr hs
    rw [run_succ_of_step hstep]
    exact ih (s.pastEdge.hostStore s.edge) hp fun p hm => hpins p (List.mem_of_mem_tail (by simpa using hm))

end Sys2Proof.Machine
end

section
/-! PROOFS. Runs of a busy block, and the hash-and-rewrite pass edge by edge: the scan of `pr_hash`, the eight iterations of
step 2b of R103, and what the last `REWR` leads to. Of the host they ask only that it does not reset. -/

namespace Sys2Proof.Machine

/-! ### What the coming samples meet -/

/-- The samples of the next `n` edges meet `P`. -/
def EdgesMeet (P : Pins → Prop) (n : Nat) (s : State) : Prop := ∀ p ∈ s.pins.take n, P p

/-- No reset at the next `n` edges. -/
abbrev NoReset (n : Nat) (s : State) : Prop := EdgesMeet (fun p => p.rst = false) n s

section
variable {P Q : Pins → Prop} {m n : Nat} {s t : State}

theorem EdgesMeet.imp (h : EdgesMeet P n s) (hPQ : ∀ p, P p → Q p) : EdgesMeet Q n s := fun p hp => hPQ p (h p hp)

theorem EdgesMeet.mono (h : EdgesMeet P n s) (hm : m ≤ n) : EdgesMeet P m s := fun p hp =>
  h p ((List.take_sublist_take_left hm).subset hp)

theorem EdgesMeet.after (h : EdgesMeet P (m + n) s) (hr : run m s = .next t) : EdgesMeet P n t := by
  intro p hp
  rw [run_pins hr, List.take_drop] at hp
  exact h p (List.mem_of_mem_drop hp)

/-- The sample at the next edge; a used-up list is quiet. -/
theorem EdgesMeet.edge (h : EdgesMeet P n s) (hn : 0 < n) (hq : P Pins.quiet) : P s.edge :=
  State.edge_of_take (n := 0) hq (h.mono hn)

theorem NoReset.edge_rst (h : NoReset n s) (hn : 0 < n) : s.edge.rst = false := EdgesMeet.edge h hn rfl

theorem ReadsAnswered.mono (h : ReadsAnswered n s) (hm : m ≤ n) : ReadsAnswered m s := fun l u hl =>
  h l u (Nat.lt_of_lt_of_le hl hm)

theorem ReadsAnswered.after (h : ReadsAnswered (m + n) s) (hr : run m s = .next t) : ReadsAnswered n t := fun l u hl hu =>
  h (m + l) u (Nat.add_lt_add_left hl m) ((run_add_of_run hr).trans hu)

theorem ReadsAnswered.edge_inAck (h : ReadsAnswered n s) (hn : 0 < n) (hp : s.ph = .mix) : s.edge.inAck = true :=
  h 0 s hn rfl (by simp [State.inReq, hp])

end

/-! ### Runs of a busy block -/

/-- `n` edges from `s` to `t`, and the block is busy at each of them. -/
structure BusyRun (n : Nat) (s t : State) : Prop where
  run_eq : run n s = .next t
  busy : ∀ m, m < n → ∃ u, run m s = .next u ∧ u.busy = true

section
variable {m n : Nat} {s t u : State}

theorem BusyRun.refl (s : State) : BusyRun 0 s s := ⟨rfl, fun m hm => absurd hm (Nat.not_lt_zero m)⟩

theorem BusyRun.of_step (hp : s.ph ≠ .idle) (h : step s = .next t) : BusyRun 1 s t := by
  refine ⟨run_succ_of_step h, fun m hm => ?_⟩
  obtain rfl : m = 0 := Nat.lt_one_iff.1 hm
  exact ⟨s, rfl, busy_iff.2 hp⟩

theorem BusyRun.trans (h : BusyRun m s t) (h' : BusyRun n t u) : BusyRun (m + n) s u := by
  refine ⟨(run_add_of_run h.run_eq).trans h'.run_eq, fun l hl => ?_⟩
  by_cases hm : l < m
  · exact h.busy l hm
  · obtain ⟨v, hv, hb⟩ := h'.busy (l - m) (by omega)
    refine ⟨v, ?_, hb⟩
    rw [← hv, ← run_add_of_run h.run_eq, Nat.add_sub_cancel' (Nat.le_of_not_lt hm)]

theorem BusyRun.snoc (h : BusyRun n s t) (hp : t.ph ≠ .idle) (hs : step t = .next u) : BusyRun (n + 1) s u :=
  h.trans (.of_step hp hs)

/-- The first edge of a busy run. -/
theorem BusyRun.head (h : BusyRun (n + 1) s t) : s.ph ≠ .idle ∧ ∃ u, step s = .next u ∧ BusyRun n u t := by
  have hp : s.ph ≠ .idle := by
    obtain ⟨v, hv, hb⟩ := h.busy 0 n.succ_pos
    cases hv
    exact busy_iff.1 hb
  obtain ⟨u, hu, hr⟩ := step_of_run_succ h.run_eq
  refine ⟨hp, u, hu, hr, fun m hm => ?_⟩
  obtain ⟨v, hv, hb⟩ := h.busy (m + 1) (Nat.succ_lt_succ hm)
  exact ⟨v, (run_succ_of_step hu).symm.trans hv, hb⟩

/-- A run from the invariant is in it all along, so `DONE` = 0 wherever the block is busy. -/
theorem BusyRun.done_false (h : BusyRun n s t) (hi : Inv s) (hm : m < n) :
    ∃ u, run m s = .next u ∧ u.busy = true ∧ u.DONE = false := by
  obtain ⟨u, hu, hb⟩ := h.busy m hm
  obtain ⟨v, hv, hiv⟩ := exists_run_of_inv m hi
  obtain rfl : u = v := by simpa [hu] using hv
  exact ⟨u, hu, hb, hiv.done_false (busy_iff.1 hb)⟩

end

/-! ### What a pass leaves -/

/-- What every edge of an operation leaves until the mapping: the length, the result register, `DONE` and the table. -/
structure SameOperation (s t : State) : Prop where
  LEN : t.LEN = s.LEN
  OUT : t.OUT = s.OUT
  DONE : t.DONE = s.DONE
  cfg : t.cfg = s.cfg

/-- The same, within one round. -/
structure SameRound (s t : State) : Prop extends SameOperation s t where
  r : t.r = s.r

section
variable {s t u : State}

theorem SameOperation.trans (h : SameOperation s t) (h' : SameOperation t u) : SameOperation s u :=
  ⟨h'.LEN.trans h.LEN, h'.OUT.trans h.OUT, h'.DONE.trans h.DONE, h'.cfg.trans h.cfg⟩

theorem SameRound.refl (s : State) : SameRound s s := ⟨⟨rfl, rfl, rfl, rfl⟩, rfl⟩

theorem SameRound.trans (h : SameRound s t) (h' : SameRound t u) : SameRound s u :=
  ⟨h.toSameOperation.trans h'.toSameOperation, h'.r.trans h.r⟩

end

/-- The working data of the procedure (R103), as the block holds it. -/
def State.work (s : State) : Work := { scratch := s.S, hash := s.H }

/-! ### The scan of `pr_hash` (R142, R106) -/

/-- The edge of an `HSTEP`. -/
theorem exists_step_hstep {s : State} (hp : s.ph = .hstep) (hr : s.edge.rst = false) :
    ∃ t, step s = .next t ∧ t.H = hashStep s.cfg s.H s.S[s.i] ∧ t.S = s.S ∧ t.jw = s.jw ∧ SameRound s t ∧
      (if s.i.val = 0 then t.ph = .rewr else t.ph = .hstep ∧ t.i.val = s.i.val - 1) := by
  rw [step_hstep hp hr]
  by_cases hi : s.i.val = 0
  · rw [execHstep_last hi]
    simp only [if_pos hi]
    exact ⟨_, rfl, rfl, rfl, rfl, ⟨⟨rfl, rfl, rfl, rfl⟩, rfl⟩, rfl⟩
  · rw [execHstep_more hi]
    simp only [if_neg hi]
    exact ⟨_, rfl, rfl, rfl, rfl, ⟨⟨rfl, rfl, rfl, rfl⟩, rfl⟩, hp, Fin.val_sub_one_of_ne_zero (Fin.val_ne_zero_iff.1 hi)⟩

/-- `n` steps of `pr_hash` from its start in `s` have led to `t`. -/
structure Scanned (n : Nat) (s t : State) : Prop extends SameRound s t where
  H : t.H = prHashSteps s.cfg s.S n s.H
  S : t.S = s.S
  jw : t.jw = s.jw

/-- One more step of `pr_hash`: after `n` of them the index is `15 - n`. -/
theorem Scanned.exists_step {n : Nat} {s t : State} (h : Scanned n s t) (hn : n ≤ 15) (hp : t.ph = .hstep)
    (hi : t.i.val = 15 - n) (hr : t.edge.rst = false) :
    ∃ u, step t = .next u ∧ Scanned (n + 1) s u ∧
      (if n = 15 then u.ph = .rewr else u.ph = .hstep ∧ u.i.val = 15 - (n + 1)) := by
  obtain ⟨u, hu, hH, hS, hj, hsame, hnext⟩ := exists_step_hstep hp hr
  have hHn : u.H = prHashSteps s.cfg s.S (n + 1) s.H := by
    simp only [hH, h.cfg, h.S, h.H, prHashSteps, Fin.getElem_fin, hi]
  refine ⟨u, hu, ⟨h.toSameRound.trans hsame, hHn, hS.trans h.S, hj.trans h.jw⟩, ?_⟩
  by_cases h15 : n = 15
  · rwa [if_pos (by omega)] at hnext ⊢
  · rw [if_neg (by omega)] at hnext ⊢
    exact ⟨hnext.1, by omega⟩

/-- The steps of `pr_hash` short of the last, by induction on their number. -/
theorem exists_hsteps {s : State} (hp : s.ph = .hstep) (hi : s.i = 15) (hr : NoReset 16 s) (n : Nat) (hn : n ≤ 15) :
    ∃ t, BusyRun n s t ∧ t.ph = .hstep ∧ t.i.val = 15 - n ∧ Scanned n s t := by
  induction n with
  | zero => exact ⟨s, .refl s, hp, by simp [hi], ⟨.refl s, rfl, rfl, rfl⟩⟩
  | succ n ih =>
    obtain ⟨t, hrun, htp, hti, hscan⟩ := ih (by omega)
    have hrst : NoReset 1 t := (hr.mono (by omega)).after hrun.run_eq
    obtain ⟨u, hu, hscan', hnext⟩ := hscan.exists_step (by omega) htp hti (hrst.edge_rst one_pos)
    rw [if_neg (by omega)] at hnext
    exact ⟨u, hrun.snoc (by simp [htp]) hu, hnext.1, hnext.2, hscan'⟩

/-- R142: sixteen steps are one evaluation of `pr_hash`. -/
theorem exists_scan {s : State} (hp : s.ph = .hstep) (hi : s.i = 15) (hr : NoReset 16 s) :
    ∃ t, BusyRun 16 s t ∧ t.ph = .rewr ∧ Scanned 16 s t := by
  obtain ⟨t, hrun, htp, hti, hscan⟩ := exists_hsteps hp hi hr 15 le_rfl
  have hrst : NoReset 1 t := EdgesMeet.after (m := 15) hr hrun.run_eq
  obtain ⟨u, hu, hscan', hnext⟩ := hscan.exists_step le_rfl htp hti (hrst.edge_rst one_pos)
  exact ⟨u, hrun.snoc (by simp [htp]) hu, hnext, hscan'⟩

/-! ### The hash-and-rewrite pass (R146, R107) -/

/-- The start of iteration `n` of the hash-and-rewrite pass: `HSTEP 15` with `jw` = `2 * n`. -/
structure AtScan (n : Nat) (s : State) : Prop where
  ph : s.ph = .hstep
  i : s.i = 15
  jw : s.jw.val = 2 * n

/-- The start of a round (R101, R107): `MIX 0`, or the first scan at once where `LEN` = 0. -/
def AtRound (s : State) : Prop := if s.LEN = 0 then AtScan 0 s else s.ph = .mix ∧ s.jm = 0

theorem atRound_toRound (s : State) : AtRound s.toRound := by
  unfold AtRound
  by_cases hl : s.LEN = 0
  · simpa [hl, State.toRound_empty hl] using (⟨rfl, rfl, rfl⟩ : AtScan 0 s.toHashPass)
  · simp [hl, State.toRound_nonempty hl]

/-- The host's stores are no part of the round. -/
theorem AtRound.hostStore {s : State} (h : AtRound s) (p : Pins) : AtRound (s.hostStore p) := by
  unfold AtRound at *
  by_cases hl : s.LEN = 0
  · rw [if_pos hl] at h
    rw [if_pos (by simpa using hl)]
    exact ⟨h.ph, h.i, h.jw⟩
  · rw [if_neg hl] at h
    rwa [if_neg (by simpa using hl)]

/-- R144: the two byte writes after a scan complete an iteration of the loop of step 2b. -/
theorem work_rewrite {s t : State} {n : Fin 8} (h : Scanned 16 s t) (hj : t.jw.val = 2 * n.val) :
    (t.rewrite t.jw).work = hashRewrite s.cfg s.work n := by
  have hH : t.H = prHash s.cfg s.S s.H := h.H
  simp only [State.work, State.rewrite_S, State.rewrite_H, hashRewrite, hH, h.S,
    rewriteHighIndex_val (n := t.jw) (by omega), hj]

/-- The edge of a `REWR` that is not the last of its pass. -/
theorem exists_step_rewr_more {s : State} {n : Nat} (hp : s.ph = .rewr) (hj : s.jw.val = 2 * n) (hn : n < 7)
    (hr : s.edge.rst = false) :
    ∃ t, step s = .next t ∧ AtScan (n + 1) t ∧ t.work = (s.rewrite s.jw).work ∧ SameRound s t := by
  have he : s.jw.val % 2 = 0 := by omega
  have hj' : (s.jw + 2).val = 2 * (n + 1) := by
    rw [Fin.val_add, show ((2 : Fin 16)).val = 2 from rfl]
    omega
  rw [step_rewr hp hr he, execRewr_more he (by omega)]
  exact ⟨_, rfl, ⟨rfl, rfl, hj'⟩, rfl, ⟨⟨rfl, rfl, rfl, rfl⟩, rfl⟩⟩

/-- The edge of `REWR 14` before the fifth round: the next round begins. -/
theorem exists_step_rewr_round {s : State} (hp : s.ph = .rewr) (hj : s.jw.val = 14) (h4 : s.r.val < 4)
    (hr : s.edge.rst = false) :
    ∃ t, step s = .next t ∧ AtRound t ∧ t.work = (s.rewrite s.jw).work ∧ t.r.val = s.r.val + 1 ∧ SameOperation s t := by
  have he : s.jw.val % 2 = 0 := by omega
  have hr' : (s.r + 1).val = s.r.val + 1 := by
    rw [Fin.val_add, show ((1 : Fin 8)).val = 1 from rfl]
    omega
  rw [step_rewr hp hr he, execRewr_round (s := s.pastEdge) he (by omega) h4]
  refine ⟨_, rfl, (atRound_toRound _).hostStore _, ?_, ?_, ?_⟩
  · simp [State.work]
  · simpa using hr'
  · constructor <;> simp

/-- The edge of `REWR 14` in the fifth round: the mapping begins. -/
theorem exists_step_rewr_final {s : State} (hp : s.ph = .rewr) (hj : s.jw.val = 14) (h4 : s.r.val = 4)
    (hr : s.edge.rst = false) :
    ∃ t, step s = .next t ∧ t.ph = .map ∧ t.k = 0 ∧ t.work = (s.rewrite s.jw).work ∧ SameOperation s t := by
  have he : s.jw.val % 2 = 0 := by omega
  rw [step_rewr hp hr he, execRewr_final (s := s.pastEdge) he (by omega) h4]
  exact ⟨_, rfl, rfl, rfl, rfl, ⟨rfl, rfl, rfl, rfl⟩⟩

/-- The first `n` iterations of the loop of step 2b (R103). -/
def hashPassSteps (c : Config) (n : Nat) (w : Work) : Work := ((List.finRange 8).take n).foldl (hashRewrite c) w

theorem hashPassSteps_succ (c : Config) (n : Fin 8) (w : Work) :
    hashPassSteps c (n.val + 1) w = hashRewrite c (hashPassSteps c n.val w) n := by
  simp [hashPassSteps, List.take_add_one]

theorem hashPassSteps_eight (c : Config) (w : Work) : hashPassSteps c 8 w = hashPass c w := rfl

/-- `n` iterations from `s` have led to the start of iteration `n` in `t`. -/
structure Rewritten (n : Nat) (s t : State) : Prop extends SameRound s t, AtScan n t where
  work : t.work = hashPassSteps s.cfg n s.work

/-- The scan of one more iteration, up to its `REWR`. -/
theorem Rewritten.exists_scan {n : Fin 8} {s t : State} (h : Rewritten n.val s t) (hr : NoReset 16 t) :
    ∃ u, BusyRun 16 t u ∧ u.ph = .rewr ∧ u.jw.val = 2 * n.val ∧
      (u.rewrite u.jw).work = hashPassSteps s.cfg (n.val + 1) s.work ∧ SameRound s u := by
  obtain ⟨u, hrun, hup, hscan⟩ := Machine.exists_scan h.ph h.i hr
  have hj : u.jw.val = 2 * n.val := by rw [hscan.jw, h.jw]
  refine ⟨u, hrun, hup, hj, ?_, h.toSameRound.trans hscan.toSameRound⟩
  rw [work_rewrite hscan hj, hashPassSteps_succ, h.work, h.cfg]

/-- The iterations short of the last, by induction on their number. -/
theorem exists_rewritten {s : State} (h : AtScan 0 s) (hr : NoReset 136 s) (n : Nat) (hn : n ≤ 7) :
    ∃ t, BusyRun (17 * n) s t ∧ Rewritten n s t := by
  induction n with
  | zero => exact ⟨s, .refl s, .refl s, h, rfl⟩
  | succ n ih =>
    obtain ⟨t, hrun, hrw⟩ := ih (by omega)
    have hrt : NoReset 17 t := (hr.mono (by omega)).after hrun.run_eq
    obtain ⟨u, hscan, hup, hj, hw, hsame⟩ := Rewritten.exists_scan (n := ⟨n, by omega⟩) hrw (hrt.mono (by omega))
    have hru : NoReset 1 u := EdgesMeet.after (m := 16) hrt hscan.run_eq
    obtain ⟨v, hv, hat, hvw, hsame'⟩ := exists_step_rewr_more (n := n) hup hj (by omega) (hru.edge_rst one_pos)
    exact ⟨v, hrun.trans (hscan.snoc (by simp [hup]) hv), hsame.trans hsame', hat, hvw.trans hw⟩

/-- The hash-and-rewrite pass up to its last `REWR`. -/
theorem exists_hashPass_rewr {s : State} (h : AtScan 0 s) (hr : NoReset 136 s) :
    ∃ t, BusyRun 135 s t ∧ t.ph = .rewr ∧ t.jw.val = 14 ∧ t.edge.rst = false ∧
      (t.rewrite t.jw).work = hashPass s.cfg s.work ∧ SameRound s t := by
  obtain ⟨t, hrun, hrw⟩ := exists_rewritten h hr 7 le_rfl
  have hrt : NoReset 17 t := EdgesMeet.after (m := 119) hr hrun.run_eq
  obtain ⟨u, hscan, hup, hj, hw, hsame⟩ := Rewritten.exists_scan (n := 7) hrw (hrt.mono (by omega))
  have hru : NoReset 1 u := EdgesMeet.after (m := 16) hrt hscan.run_eq
  exact ⟨u, hrun.trans hscan, hup, hj, hru.edge_rst one_pos, hw.trans (hashPassSteps_eight _ _), hsame⟩

/-- R146 and R107 before the fifth round. -/
theorem exists_hashPass_round {s : State} (h : AtScan 0 s) (h4 : s.r.val < 4) (hr : NoReset 136 s) :
    ∃ t, BusyRun 136 s t ∧ AtRound t ∧ t.work = hashPass s.cfg s.work ∧ t.r.val = s.r.val + 1 ∧ SameOperation s t := by
  obtain ⟨t, hrun, hp, hj, hrst, hw, hsame⟩ := exists_hashPass_rewr h hr
  obtain ⟨u, hu, hat, huw, hur, hsame'⟩ := exists_step_rewr_round hp hj (by rwa [hsame.r]) hrst
  exact ⟨u, hrun.snoc (by simp [hp]) hu, hat, huw.trans hw, by rw [hur, hsame.r], hsame.toSameOperation.trans hsame'⟩

/-- R146 and R107 in the fifth round. -/
theorem exists_hashPass_final {s : State} (h : AtScan 0 s) (h4 : s.r.val = 4) (hr : NoReset 136 s) :
    ∃ t, BusyRun 136 s t ∧ t.ph = .map ∧ t.k = 0 ∧ t.work = hashPass s.cfg s.work ∧ SameOperation s t := by
  obtain ⟨t, hrun, hp, hj, hrst, hw, hsame⟩ := exists_hashPass_rewr h hr
  obtain ⟨u, hu, hup, huk, huw, hsame'⟩ := exists_step_rewr_final hp hj (by rwa [hsame.r]) hrst
  exact ⟨u, hrun.snoc (by simp [hp]) hu, hup, huk, huw.trans hw, hsame.toSameOperation.trans hsame'⟩

end Sys2Proof.Machine
end

section
/-! PROOFS. A whole operation: the mix-in pass, the five rounds and the mapping, from an accepted `ENCODE` to the result of
the procedure of R103: O33 and O36. -/

namespace Sys2Proof.Machine

/-! ### The input kept along the edges of an operation (R200) -/

/-- The `len` bytes of `input` are those of the operation in progress, and the host has changed none of them. -/
structure InputKept (len : Nat) (input : Nat → Byte) (s : State) : Prop where
  LEN : s.LEN = len
  wf : Memory.wf s.IN = true
  read : ∀ j, j < len → s.readIN j = input j
  unchanged : s.inputChanged = false

section
variable {len m n : Nat} {input : Nat → Byte} {s t u : State}

theorem EdgesMeet.noReset (h : EdgesMeet (Pins.stable len input) n s) : NoReset n s := h.imp fun _ hp => hp.1

/-- Stores that leave the `len` bytes keep the input. -/
theorem InputKept.hostStore {p : Pins} (h : InputKept len input s) (hp : p.stable len input) :
    InputKept len input (s.hostStore p) := by
  have hstores : ∀ c ∈ p.hostStores, c.1 < len → c.2 = s.readIN c.1 := fun c hc hl => by
    rw [hp.2 c hc hl, h.read c.1 hl]
  refine ⟨h.LEN, State.hostStore_wf p h.wf, fun j hj => ?_, ?_⟩
  · rw [State.hostStore_readIN h.wf fun c hc hcj => hcj ▸ hstores c hc (hcj ▸ hj), h.read j hj]
  · rw [State.hostStore_inputChanged_of_stable h.wf (by rwa [h.LEN]), h.unchanged]

/-- At an edge of a busy block that is no reset, the block's part leaves the input and what is known of it. -/
theorem InputKept.of_busy_step (h : InputKept len input s) (hb : s.ph ≠ .idle) (hr : s.edge.rst = false)
    (hs : step s = .next t) : ∃ u, InputKept len input u ∧ t = u.hostStore s.edge := by
  rcases step_cases hs with ⟨hr', _⟩ | ⟨_, hs⟩
  · simp [hr] at hr'
  have keep : ∀ u : State, u.LEN = s.LEN → u.IN = s.IN → u.inputChanged = s.inputChanged → InputKept len input u :=
    fun u hL hI hc => ⟨hL.trans h.LEN, hI ▸ h.wf, fun j hj => (congrArg (Memory.read · j) hI).trans (h.read j hj),
      hc.trans h.unchanged⟩
  rcases hs with ⟨hp, _⟩ | ⟨hp, _⟩ | ⟨_, _, rfl⟩ | ⟨_, _, u, hu, rfl⟩ | ⟨_, u, hu, rfl⟩ | ⟨_, u, hu, rfl⟩ | ⟨_, u, hu, rfl⟩
  · exact absurd hp hb
  · exact absurd hp hb
  · exact ⟨s.pastEdge, keep _ rfl rfl rfl, rfl⟩
  · refine ⟨u, ?_, rfl⟩
    rcases execMix_cases hu with ⟨_, rfl⟩ | ⟨_, rfl⟩ <;> exact keep _ rfl rfl rfl
  · refine ⟨u, ?_, rfl⟩
    rcases execHstep_cases hu with ⟨_, rfl⟩ | ⟨_, rfl⟩ <;> exact keep _ rfl rfl rfl
  · refine ⟨u, ?_, rfl⟩
    obtain ⟨_, ⟨_, rfl⟩ | ⟨_, _, rfl⟩ | ⟨_, _, rfl⟩⟩ := execRewr_cases hu <;> exact keep _ (by simp) (by simp) (by simp)
  · refine ⟨u, ?_, rfl⟩
    rcases execMap_cases hu with ⟨_, rfl⟩ | ⟨_, rfl⟩ <;> exact keep _ (by simp) (by simp) (by simp)

/-- A busy run at whose edges the host keeps the input. -/
theorem InputKept.of_busyRun (h : InputKept len input s) (hst : EdgesMeet (Pins.stable len input) n s)
    (hrun : BusyRun n s t) : InputKept len input t := by
  induction n generalizing s with
  | zero =>
    obtain rfl : s = t := by simpa using hrun.run_eq
    exact h
  | succ n ih =>
    obtain ⟨hb, u, hu, htail⟩ := hrun.head
    have hp : s.edge.stable len input := hst.edge n.succ_pos (Pins.quiet_stable len input)
    obtain ⟨v, hv, rfl⟩ := h.of_busy_step hb hp.1 hu
    have hst' : EdgesMeet (Pins.stable len input) n (v.hostStore s.edge) :=
      EdgesMeet.after (m := 1) (by rwa [Nat.add_comm]) (run_succ_of_step hu)
    exact ih (hv.hostStore hp) hst' htail

/-- The host serves the operation at the next `n` edges: it keeps the input, does not reset, and answers every read at the
edge that asks for it (R200, R203). -/
structure Served (len : Nat) (input : Nat → Byte) (n : Nat) (s : State) : Prop extends InputKept len input s where
  stable : EdgesMeet (Pins.stable len input) n s
  answered : ReadsAnswered n s

theorem Served.mono (h : Served len input n s) (hm : m ≤ n) : Served len input m s :=
  ⟨h.toInputKept, h.stable.mono hm, h.answered.mono hm⟩

theorem Served.after (h : Served len input (m + n) s) (hrun : BusyRun m s t) : Served len input n t :=
  ⟨h.toInputKept.of_busyRun (h.stable.mono (Nat.le_add_right m n)) hrun, h.stable.after hrun.run_eq,
    h.answered.after hrun.run_eq⟩

/-! ### The mix-in pass (R131, R105) -/

/-- The edge of an answered `MIX` inside the input. -/
theorem exists_step_mix (hp : s.ph = .mix) (hj : s.jm < s.LEN) (hr : s.edge.rst = false) (ha : s.edge.inAck = true) :
    ∃ t, step s = .next t ∧ t.work = (s.mixByte s.jm).work ∧ SameRound s t ∧
      (if s.jm + 1 = s.LEN then AtScan 0 t else t.ph = .mix ∧ t.jm = s.jm + 1) := by
  rw [step_mix hp hr ha]
  by_cases hl : s.jm + 1 = s.LEN
  · rw [execMix_last (s := s.pastEdge) hl]
    simp only [if_pos hl]
    exact ⟨_, rfl, rfl, ⟨⟨rfl, rfl, rfl, rfl⟩, rfl⟩, ⟨rfl, rfl, rfl⟩⟩
  · rw [execMix_more (s := s.pastEdge) (by simp only [State.pastEdge_LEN]; omega)]
    simp only [if_neg hl]
    exact ⟨_, rfl, rfl, ⟨⟨rfl, rfl, rfl, rfl⟩, rfl⟩, hp, rfl⟩

/-- `n` steps of the mix-in pass begun in `s` have led to `t`. -/
structure Mixed (input : Nat → Byte) (n : Nat) (s t : State) : Prop extends SameRound s t where
  work : t.work = { scratch := mixInBytes input n s.S, hash := s.H }

/-- One more step of the mix-in pass. -/
theorem Mixed.exists_step (h : Mixed input n s t) (hs : Served len input 1 t) (hp : t.ph = .mix) (hj : t.jm = n)
    (hn : n < len) :
    ∃ u, step t = .next u ∧ Mixed input (n + 1) s u ∧
      (if n + 1 = len then AtScan 0 u else u.ph = .mix ∧ u.jm = n + 1) := by
  obtain ⟨u, hu, hw, hsame, hnext⟩ := exists_step_mix hp (by rwa [hj, hs.LEN]) (hs.stable.noReset.edge_rst one_pos)
    (hs.answered.edge_inAck one_pos hp)
  rw [hj, hs.LEN] at hnext
  have hS : t.S = mixInBytes input n s.S := congrArg Work.scratch h.work
  have hH : t.H = s.H := congrArg Work.hash h.work
  refine ⟨u, hu, ⟨h.toSameRound.trans hsame, ?_⟩, hnext⟩
  rw [hw]
  simp [State.work, hj, hS, hH, hs.read n hn, mixInBytes]

/-- The steps of the mix-in pass short of the last, by induction on their number. -/
theorem exists_mixed (hs : Served len input len s) (hp : s.ph = .mix) (hj : s.jm = 0) (n : Nat) (hn : n < len) :
    ∃ t, BusyRun n s t ∧ t.ph = .mix ∧ t.jm = n ∧ Mixed input n s t := by
  induction n with
  | zero => exact ⟨s, .refl s, hp, hj, .refl s, rfl⟩
  | succ n ih =>
    obtain ⟨t, hrun, htp, htj, hmix⟩ := ih (by omega)
    obtain ⟨u, hu, hmix', hnext⟩ := hmix.exists_step ((hs.mono (by omega)).after hrun) htp htj (by omega)
    rw [if_neg (by omega)] at hnext
    exact ⟨u, hrun.snoc (by simp [htp]) hu, hnext.1, hnext.2, hmix'⟩

/-- R131: the mix-in pass of a round, of no edge at all where the input is empty (R133). -/
theorem exists_mixPass (hs : Served len input len s) (h : AtRound s) :
    ∃ t, BusyRun len s t ∧ AtScan 0 t ∧ Mixed input len s t := by
  unfold AtRound at h
  rw [hs.LEN] at h
  cases len with
  | zero => exact ⟨s, .refl s, h, .refl s, rfl⟩
  | succ n =>
    rw [if_neg n.succ_ne_zero] at h
    obtain ⟨t, hrun, htp, htj, hmix⟩ := exists_mixed hs h.1 h.2 n n.lt_succ_self
    obtain ⟨u, hu, hmix', hnext⟩ := hmix.exists_step (hs.after hrun) htp htj n.lt_succ_self
    rw [if_pos rfl] at hnext
    exact ⟨u, hrun.snoc (by simp [htp]) hu, hnext, hmix'⟩

/-! ### The five rounds (R103, R147) -/

/-- `n` rounds from an accepted `ENCODE` have led to the start of the next one in `t`. -/
structure RoundsDone (c : Config) (len : Nat) (input : Nat → Byte) (n : Nat) (t : State) : Prop where
  at_round : AtRound t
  r : t.r.val = n
  work : t.work = encodeRounds c len input n
  cfg : t.cfg = c

/-- The next round up to its hash-and-rewrite pass, which completes the round of the procedure. -/
theorem RoundsDone.exists_mixPass {c : Config} (h : RoundsDone c len input n s) (hs : Served len input len s) :
    ∃ t, BusyRun len s t ∧ AtScan 0 t ∧ t.r.val = n ∧ t.cfg = c ∧
      hashPass t.cfg t.work = encodeRounds c len input (n + 1) := by
  obtain ⟨t, hrun, hat, hmix⟩ := Machine.exists_mixPass hs h.at_round
  have hcfg : t.cfg = c := hmix.cfg.trans h.cfg
  refine ⟨t, hrun, hat, by rw [hmix.r, h.r], hcfg, ?_⟩
  rw [hmix.work, hcfg, encodeRounds, ← h.work]
  rfl

theorem RoundsDone.exists_round {c : Config} (h : RoundsDone c len input n s) (h4 : n < 4)
    (hs : Served len input (len + 136) s) : ∃ t, BusyRun (len + 136) s t ∧ RoundsDone c len input (n + 1) t := by
  obtain ⟨t, hrun, hat, hr, hcfg, hw⟩ := h.exists_mixPass (hs.mono (by omega))
  obtain ⟨u, hpass, hround, huw, hur, hsame⟩ := exists_hashPass_round hat (by omega) (hs.after hrun).stable.noReset
  exact ⟨u, hrun.trans hpass, hround, by rw [hur, hr], huw.trans hw, hsame.cfg.trans hcfg⟩

/-- The rounds before the fifth, by induction on their number. -/
theorem RoundsDone.exists_rounds {c : Config} (h : RoundsDone c len input 0 s)
    (hs : Served len input (4 * (len + 136)) s) (n : Nat) (hn : n ≤ 4) :
    ∃ t, BusyRun (n * (len + 136)) s t ∧ RoundsDone c len input n t := by
  induction n with
  | zero => exact ⟨s, by simpa using BusyRun.refl s, h⟩
  | succ n ih =>
    obtain ⟨t, hrun, hdone⟩ := ih (by omega)
    have hst : Served len input (len + 136) t := by
      refine Served.after (hs.mono ?_) hrun
      rw [← Nat.succ_mul]
      exact Nat.mul_le_mul_right _ hn
    obtain ⟨u, hround, hdone'⟩ := hdone.exists_round (by omega) hst
    exact ⟨u, by simpa [Nat.succ_mul] using hrun.trans hround, hdone'⟩

/-- All five rounds: the mapping begins with the scratch bytes of the procedure. -/
theorem RoundsDone.exists_all_rounds {c : Config} (h : RoundsDone c len input 0 s)
    (hs : Served len input (5 * (len + 136)) s) :
    ∃ t, BusyRun (5 * (len + 136)) s t ∧ t.ph = .map ∧ t.k = 0 ∧ t.S = (encodeRounds c len input 5).scratch := by
  obtain ⟨t, hrun, hdone⟩ := h.exists_rounds (hs.mono (by omega)) 4 le_rfl
  have hst : Served len input (len + 136) t := (hs.mono (by omega)).after hrun
  obtain ⟨u, hmix, hat, hr, hcfg, hw⟩ := hdone.exists_mixPass (hst.mono (by omega))
  obtain ⟨v, hpass, hvp, hvk, hvw, _⟩ := exists_hashPass_final hat hr (hst.after hmix).stable.noReset
  have hlen : 5 * (len + 136) = 4 * (len + 136) + (len + 136) := by omega
  rw [hlen]
  exact ⟨v, hrun.trans (hmix.trans hpass), hvp, hvk, congrArg Work.scratch (hvw.trans hw)⟩

end

/-! ### The mapping (R161, R108) -/

/-- Characters 0 to `n - 1` of the result are mapped, and `MAP n` is next. -/
structure Mapped (n : Nat) (s t : State) : Prop where
  ph : t.ph = .map
  k : t.k.val = n
  S : t.S = s.S
  OUT : ∀ m : Fin 16, m.val < n → t.OUT[m] = mapByte s.S[m]

section
variable {n : Nat} {s t : State}

/-- The character `MAP` writes joins those before it. -/
theorem Mapped.writeOUT (h : Mapped n s t) (m : Fin 16) (hm : m.val < n + 1) :
    (t.writeOUT t.k (mapByte t.S[t.k])).OUT[m] = mapByte s.S[m] := by
  rw [State.writeOUT_read, h.S]
  split
  next he => rw [he]
  next hne =>
    have hk := h.k
    exact h.OUT m (by omega)

theorem Mapped.exists_step (h : Mapped n s t) (hn : n < 15) (hr : t.edge.rst = false) :
    ∃ u, step t = .next u ∧ Mapped (n + 1) s u := by
  have hk := h.k
  have hk' : (t.k + 1).val = n + 1 := by
    rw [Fin.val_add, show ((1 : Fin 16)).val = 1 from rfl]
    omega
  rw [step_map h.ph hr, execMap_more (by omega)]
  exact ⟨_, rfl, h.ph, hk', h.S, h.writeOUT⟩

/-- The mapping short of its last character, by induction on the characters. -/
theorem exists_mapped (hp : s.ph = .map) (hk : s.k = 0) (hr : NoReset 16 s) (n : Nat) (hn : n ≤ 15) :
    ∃ t, BusyRun n s t ∧ Mapped n s t := by
  induction n with
  | zero => exact ⟨s, .refl s, hp, by simp [hk], rfl, fun m hm => absurd hm m.val.not_lt_zero⟩
  | succ n ih =>
    obtain ⟨t, hrun, hmap⟩ := ih (by omega)
    have hrt : NoReset 1 t := (hr.mono (by omega)).after hrun.run_eq
    obtain ⟨u, hu, hmap'⟩ := hmap.exists_step (by omega) (hrt.edge_rst one_pos)
    exact ⟨u, hrun.snoc (by simp [hmap.ph]) hu, hmap'⟩

/-- `MAP 15` of an operation whose input was kept completes it with the sixteen mapped bytes (R165). -/
theorem Mapped.exists_last_step (h : Mapped 15 s t) (hr : t.edge.rst = false) (hc : t.inputChanged = false) :
    ∃ u, step t = .next u ∧ u.ph = .idle ∧ u.DONE = true ∧ u.OUT = s.S.map mapByte := by
  have hOUT : (t.writeOUT t.k (mapByte t.S[t.k])).OUT = s.S.map mapByte :=
    Vector.ext fun m hm => (h.writeOUT ⟨m, hm⟩ hm).trans (Vector.getElem_map _ _).symm
  rw [step_map h.ph hr, execMap_last h.k, State.settleResult_stable (by simpa using hc)]
  exact ⟨_, rfl, rfl, rfl, hOUT⟩

theorem exists_mapPass {len : Nat} {input : Nat → Byte} (hp : s.ph = .map) (hk : s.k = 0)
    (hs : Served len input 16 s) :
    ∃ t, BusyRun 16 s t ∧ t.ph = .idle ∧ t.DONE = true ∧ t.OUT = s.S.map mapByte := by
  obtain ⟨t, hrun, hmap⟩ := exists_mapped hp hk hs.stable.noReset 15 le_rfl
  have hst : Served len input 1 t := Served.after (m := 15) hs hrun
  obtain ⟨u, hu, hdone⟩ := hmap.exists_last_step (hst.stable.noReset.edge_rst one_pos) hst.unchanged
  exact ⟨u, hrun.snoc (by simp [hmap.ph]) hu, hdone⟩

end

/-! ### The whole operation (R111) -/

/-- The edge of acceptance (R101), in any idle state: the operation starts in the invariant, with the working data of the
procedure, and the host goes on serving it. -/
theorem exists_step_accept {s : State} {n : Nat} (hp : s.ph = .idle) (hst : s.edge.start = true)
    (hw : Memory.wf s.IN = true) (hstable : EdgesMeet (Pins.stable s.edge.len s.readIN) (n + 1) s)
    (ha : ReadsAnswered (n + 1) s) :
    ∃ t, step s = .next t ∧ Inv t ∧ Served s.edge.len s.readIN n t ∧ RoundsDone s.cfg s.edge.len s.readIN 0 t := by
  have hq : s.edge.stable s.edge.len s.readIN := hstable.edge n.succ_pos (Pins.quiet_stable _ _)
  have hstep := step_idle_encode hp hq.1 hst
  have hkept : InputKept s.edge.len s.readIN (s.pastEdge.initialise s.edge.len).clearDone.toRound :=
    ⟨by simp, by simpa using hw, fun j _ => (SameSurroundings.accept s.pastEdge s.edge.len).readIN j, by simp⟩
  have hinv : Inv (s.pastEdge.initialise s.edge.len).clearDone.toRound := .toRound (by simp) rfl hw
  refine ⟨_, hstep, hinv.hostStore _, ⟨hkept.hostStore hq, ?_, ha.tail hstep⟩, ?_⟩
  · exact EdgesMeet.after (m := 1) (by rwa [Nat.add_comm]) (run_succ_of_step hstep)
  · exact ⟨(atRound_toRound _).hostStore _, by simp, by simp [State.work, encodeRounds, Work.start], by simp⟩

/-- An operation in progress from its first round to the readable result. -/
theorem RoundsDone.exists_result {c : Config} {len : Nat} {input : Nat → Byte} {s : State}
    (h : RoundsDone c len input 0 s) (hs : Served len input (5 * len + 696) s) :
    ∃ t, BusyRun (5 * len + 696) s t ∧ t.ph = .idle ∧ t.DONE = true ∧ t.OUT = encodeBytes c len input := by
  have hlen : 5 * len + 696 = 5 * (len + 136) + 16 := by omega
  rw [hlen] at hs ⊢
  obtain ⟨t, hrun, hp, hk, hS⟩ := h.exists_all_rounds (hs.mono (by omega))
  obtain ⟨u, hmap, hup, hud, huo⟩ := exists_mapPass hp hk (hs.after hrun)
  exact ⟨u, hrun.trans hmap, hup, hud, by rw [huo, hS]; rfl⟩

/-- Settles O33: the acceptance, the five rounds and the mapping, each with its part of the procedure; the invariant gives
`DONE` = 0 along the way. -/
theorem operationDeliversTheEncodeResult : Obligations.OperationDeliversTheEncodeResult := by
  intro s p rest hp hpins hst hw hstable ha
  obtain rfl : s.edge = p := State.edge_cons hpins
  rw [← hpins] at hstable
  obtain ⟨t, ht, hinv, hserved, hrounds⟩ := exists_step_accept hp hst hw hstable ha
  obtain ⟨u, hrun, hup, hud, huo⟩ := hrounds.exists_result hserved
  refine ⟨⟨u, (run_succ_of_step ht).trans hrun.run_eq, hud, hup, huo, by simp [State.result, hud, huo]⟩,
    fun n h1 hn => ?_⟩
  obtain ⟨m, rfl⟩ := Nat.exists_eq_add_of_le' h1
  rw [run_succ_of_step ht]
  exact hrun.done_false hinv (by omega)

/-! ### The procedure reads the first `len` input bytes (R113 (a)) -/

section
variable {len : Nat} {input input' : Nat → Byte}

theorem mixInBytes_congr (h : ∀ j, j < len → input j = input' j) (S : Bytes16) :
    mixInBytes input len S = mixInBytes input' len S := by
  induction len with
  | zero => rfl
  | succ n ih => rw [mixInBytes, mixInBytes, ih fun j hj => h j (by omega), h n n.lt_succ_self]

theorem encodeRounds_congr (c : Config) (h : ∀ j, j < len → input j = input' j) (n : Nat) :
    encodeRounds c len input n = encodeRounds c len input' n := by
  induction n with
  | zero => rfl
  | succ n ih => rw [encodeRounds, encodeRounds, ih, encodeRound, encodeRound, mixInBytes_congr h]

theorem encodeBytes_congr (c : Config) (h : ∀ j, j < len → input j = input' j) :
    encodeBytes c len input = encodeBytes c len input' := by
  rw [encodeBytes, encodeBytes, encodeRounds_congr c h]

end

/-- Settles O36: both operations deliver the result of the procedure, which reads the table and the `len` bytes only. -/
theorem resultDependsOnInputAndTableOnly : Obligations.ResultDependsOnInputAndTableOnly := by
  intro s s' p p' rest rest' hp hpins hst hw hstable ha hp' hpins' hst' hw' hstable' ha' hcfg hlen hinput
  obtain ⟨⟨t, ht, hd, _, hout, hres⟩, _⟩ :=
    operationDeliversTheEncodeResult s p rest hp hpins hst hw hstable ha
  obtain ⟨⟨t', ht', hd', _, hout', hres'⟩, _⟩ :=
    operationDeliversTheEncodeResult s' p' rest' hp' hpins' hst' hw' hstable' ha'
  have hsame : encodeBytes s.cfg p.len s.readIN = encodeBytes s'.cfg p'.len s'.readIN := by
    rw [← hcfg, ← hlen, encodeBytes_congr s.cfg hinput]
  rw [← hlen] at ht'
  exact ⟨t, t', ht, ht', hd, hd', by rw [hout, hout', hsame], by rw [hres, hres', hsame]⟩

end Sys2Proof.Machine
end

section
/-! PROOFS. The mix-in pass: one `MIX`, its `LEN` edges as the fold of the input, and the result as a function of the fold:
O8, O31 and O38. -/

namespace Sys2Proof.Machine

/-! ### One `MIX` (R130, R105) -/

/-- R132: the scratch byte that `MIX jm` writes, by its number. -/
theorem State.mixByte_read_val (s : State) (jm : Nat) (n : Fin 16) :
    (s.mixByte jm).S[n] = if n.val = 15 - jm % 16 then s.S[n] ^^^ s.readIN jm else s.S[n] := by
  rw [State.mixByte_read]
  exact if_congr Fin.ext_iff rfl rfl

/-- Settles O8: both next states of an answered `MIX` are `mixByte` with the sequencer moved on, and an unanswered one is a
waiting edge. -/
theorem mixXorsOneScratchByte : Obligations.MixXorsOneScratchByte := by
  refine ⟨fun s jm hj => ⟨decode_uop_mix jm, ?_⟩, fun s p rest hp hpins hr ha => ?_⟩
  · by_cases hl : jm + 1 = s.LEN
    · simp only [if_pos hl]
      exact ⟨_, execMix_last hl, s.mixByte_read_val jm, ⟨rfl, rfl, rfl, rfl⟩,
        rfl, rfl, rfl, rfl, rfl, rfl, rfl, fun _ => rfl, rfl, rfl, rfl⟩
    · simp only [if_neg hl]
      exact ⟨_, execMix_more (by omega), s.mixByte_read_val jm, ⟨rfl, rfl, rfl, rfl⟩,
        rfl, rfl, rfl, rfl, rfl, rfl, rfl, fun _ => rfl, rfl, rfl, rfl⟩
  · obtain rfl : s.edge = p := State.edge_cons hpins
    exact step_wait hr (waiting_of_noAck hp ha)

/-! ### The fold (R134) -/

section
variable {len len' : Nat} {input input' : Nat → Byte}

/-- One more input byte joins the fold in the scratch byte it is mixed into. -/
theorem foldInput_succ (n : Nat) (input : Nat → Byte) (m : Fin 16) :
    (foldInput (n + 1) input)[m] =
      if m = scratchIndex n then (foldInput n input)[m] ^^^ input n else (foldInput n input)[m] := by
  by_cases h : m = scratchIndex n
  · simp [foldInput, List.range_succ, h]
  · simp [foldInput, List.range_succ, h, Ne.symm h]

/-- R134: a mix-in pass exclusive-ors the fold into the scratch bytes. -/
theorem mixInBytes_read (input : Nat → Byte) (n : Nat) (S : Bytes16) (m : Fin 16) :
    (mixInBytes input n S)[m] = S[m] ^^^ (foldInput n input)[m] := by
  induction n generalizing m with
  | zero => simp [mixInBytes, foldInput]
  | succ n ih =>
    rw [mixInBytes, foldInput_succ]
    refine (getElem_setFin _ _ m _).trans ?_
    split
    next h =>
      subst h
      rw [← BitVec.xor_assoc, ← ih]
    next => exact ih m

/-- R134 (b) for one mix-in pass: it depends on the input by the fold only. -/
theorem mixInBytes_congr_fold (h : foldInput len input = foldInput len' input') (S : Bytes16) :
    mixInBytes input len S = mixInBytes input' len' S := by
  refine Vector.ext fun m hm => ?_
  have hread := mixInBytes_read input len S ⟨m, hm⟩
  rw [h, ← mixInBytes_read input' len' S] at hread
  exact hread

/-- R134 (b) for the rounds, each of which reads the input in its mix-in pass only. -/
theorem encodeRounds_congr_fold (c : Config) (h : foldInput len input = foldInput len' input') (n : Nat) :
    encodeRounds c len input n = encodeRounds c len' input' n := by
  induction n with
  | zero => rfl
  | succ n ih => rw [encodeRounds, encodeRounds, ih, encodeRound, encodeRound, mixInBytes_congr_fold h]

theorem encodeBytes_congr_fold (c : Config) (h : foldInput len input = foldInput len' input') :
    encodeBytes c len input = encodeBytes c len' input' := by
  rw [encodeBytes, encodeBytes, encodeRounds_congr_fold c h]

/-- An appended byte of value 0x00 leaves the fold. -/
theorem foldInput_succ_of_zero (h : input len = 0x00#8) : foldInput (len + 1) input = foldInput len input := by
  refine Vector.ext fun m hm => (foldInput_succ len input ⟨m, hm⟩).trans ?_
  simp [h]

theorem foldInput_add_of_zeros (h : ∀ j, len ≤ j → input j = 0x00#8) (extra : Nat) :
    foldInput (len + extra) input = foldInput len input := by
  induction extra with
  | zero => rfl
  | succ extra ih => rw [← Nat.add_assoc, foldInput_succ_of_zero (h _ (Nat.le_add_right len extra)), ih]

end

/-- Settles O38: the procedure reads the input through its fold, which appended zero bytes leave as it is. -/
theorem sameFoldSameResult : Obligations.SameFoldSameResult :=
  ⟨fun c _ _ _ _ => encodeBytes_congr_fold c,
    fun c _ extra _ hz => encodeBytes_congr_fold c (foldInput_add_of_zeros hz extra)⟩

/-! ### The pass on the machine (R131) -/

/-- The input space is in its canonical form and its first `len` bytes are those of `input`. -/
structure InputReads (len : Nat) (input : Nat → Byte) (s : State) : Prop where
  wf : Memory.wf s.IN = true
  read : ∀ j, j < len → s.readIN j = input j

section
variable {n len : Nat} {input : Nat → Byte} {s t : State}

/-- Any edge at which the host keeps the bytes leaves them: the block writes none of them (R53). -/
theorem InputReads.of_step (h : InputReads len input s) (hst : s.edge.stable len input) (hs : step s = .next t) :
    InputReads len input t := by
  obtain ⟨u, hsame, rfl⟩ := step_eq_hostStore_of_sameSurroundings hs
  have hIN : u.IN = s.IN := hsame.IN
  have hwf : Memory.wf u.IN = true := hIN ▸ h.wf
  have hread : ∀ j, j < len → u.readIN j = input j := fun j hj => (hsame.readIN j).trans (h.read j hj)
  refine ⟨State.hostStore_wf _ hwf, fun j hj => ?_⟩
  rw [State.hostStore_readIN hwf fun c hc hcj => ?_, hread j hj]
  rw [hread j hj, ← hcj]
  exact hst.2 c hc (hcj ▸ hj)

/-- The edges of a mix-in pass by induction on their number: whether the host changed the input earlier in the operation does
not matter to them. -/
theorem exists_mixed_of_inputReads (hp : s.ph = .mix) (hj : s.jm = 0) (h0 : 0 < s.LEN) (hin : InputReads s.LEN input s)
    (hpins : EdgesMeet (fun p => p.inAck = true ∧ p.stable s.LEN input) s.LEN s) (n : Nat) (hn : n ≤ s.LEN) :
    ∃ t, run n s = .next t ∧ InputReads s.LEN input t ∧ Mixed input n s t ∧
      (if n = s.LEN then AtScan 0 t else t.ph = .mix ∧ t.jm = n) := by
  induction n with
  | zero => exact ⟨s, rfl, hin, ⟨.refl s, rfl⟩, by rw [if_neg h0.ne]; exact ⟨hp, hj⟩⟩
  | succ n ih =>
    obtain ⟨t, hrun, hint, hmix, hat⟩ := ih (by omega)
    rw [if_neg (by omega)] at hat
    obtain ⟨htp, htj⟩ := hat
    have hedge : t.edge.inAck = true ∧ t.edge.stable s.LEN input :=
      EdgesMeet.edge ((hpins.mono hn).after hrun) one_pos ⟨rfl, Pins.quiet_stable _ _⟩
    obtain ⟨u, hu, hw, hsame, hnext⟩ := exists_step_mix htp (by rw [htj, hmix.LEN]; omega) hedge.2.1 hedge.1
    rw [htj, hmix.LEN] at hnext
    have hS : t.S = mixInBytes input n s.S := congrArg Work.scratch hmix.work
    have hH : t.H = s.H := congrArg Work.hash hmix.work
    have hwork : u.work = { scratch := mixInBytes input (n + 1) s.S, hash := s.H } := by
      rw [hw]
      simp [State.work, htj, hS, hH, hint.read n hn, mixInBytes]
    exact ⟨u, (run_add_of_run hrun).trans (run_succ_of_step hu), hint.of_step hedge.2 hu,
      ⟨hmix.toSameRound.trans hsame, hwork⟩, hnext⟩

end

/-- Settles O31: the `LEN` edges run the loop of step 2a of R103, which is the exclusive-or with the fold. -/
theorem mixPassXorsTheFold : Obligations.MixPassXorsTheFold := by
  intro s hp hj h0 hw hpins
  obtain ⟨t, hrun, _, hmix, hat⟩ := exists_mixed_of_inputReads hp hj h0 ⟨hw, fun _ _ => rfl⟩ hpins s.LEN le_rfl
  rw [if_pos rfl] at hat
  have hS : t.S = mixInBytes s.readIN s.LEN s.S := congrArg Work.scratch hmix.work
  have hH : t.H = s.H := congrArg Work.hash hmix.work
  exact ⟨t, hrun, fun n => by rw [hS, mixInBytes_read], hat.ph, Fin.ext hat.jw, hat.i, hH, hmix.r, hmix.OUT, hmix.LEN,
    hmix.DONE⟩

end Sys2Proof.Machine
end

section
/-! PROOFS. The operation on the empty input, whatever the host does but reset: no `MIX`, no read, sixteen letters: O37. -/

namespace Sys2Proof.Machine

/-! ### No edge leads to `MIX` (R133) -/

/-- The operation in progress has no input byte, and the block is not in its mix-in pass. -/
structure NoMix (s : State) : Prop where
  LEN : s.LEN = 0
  ph : s.ph ≠ .mix

section
variable {n m : Nat} {s t : State}

/-- R101 and R107 with `LEN` = 0: a round starts with its first scan. -/
theorem AtRound.atScan (h : AtRound s) (hl : s.LEN = 0) : AtScan 0 s := by
  unfold AtRound at h
  rwa [if_pos hl] at h

theorem AtScan.noMix (h : AtScan n s) (hl : s.LEN = 0) : NoMix s := ⟨hl, by simp [h.ph]⟩

/-- Every edge of a busy block but a reset leaves it so. -/
theorem NoMix.of_busy_step (h : NoMix s) (hb : s.ph ≠ .idle) (hr : s.edge.rst = false) (hs : step s = .next t) :
    NoMix t := by
  rcases step_cases hs with ⟨hr', _⟩ | ⟨_, hs⟩
  · simp [hr] at hr'
  rcases hs with ⟨hp, _⟩ | ⟨hp, _⟩ | ⟨hp, _⟩ | ⟨hp, _⟩ | ⟨_, u, hu, rfl⟩ | ⟨_, u, hu, rfl⟩ | ⟨_, u, hu, rfl⟩
  · exact absurd hp hb
  · exact absurd hp hb
  · exact absurd hp h.ph
  · exact absurd hp h.ph
  · rcases execHstep_cases hu with ⟨_, rfl⟩ | ⟨_, rfl⟩
    · exact ⟨h.LEN, nofun⟩
    · exact ⟨h.LEN, h.ph⟩
  · obtain ⟨_, ⟨_, rfl⟩ | ⟨_, _, rfl⟩ | ⟨_, _, rfl⟩⟩ := execRewr_cases hu
    · exact ⟨h.LEN, nofun⟩
    · rw [State.toRound_empty (s := (s.pastEdge.rewrite s.jw).setR _) h.LEN]
      exact ⟨h.LEN, nofun⟩
    · exact ⟨h.LEN, nofun⟩
  · rcases execMap_cases hu with ⟨_, rfl⟩ | ⟨_, rfl⟩
    · exact ⟨by simpa using h.LEN, nofun⟩
    · exact ⟨h.LEN, h.ph⟩

/-- All along a busy run without reset. -/
theorem NoMix.of_busyRun (h : NoMix s) (hrun : BusyRun n s t) (hr : NoReset n s) (hm : m ≤ n) :
    ∃ u, run m s = .next u ∧ NoMix u := by
  induction m generalizing n s with
  | zero => exact ⟨s, rfl, h⟩
  | succ m ih =>
    obtain ⟨n, rfl⟩ := Nat.exists_eq_add_of_le' (Nat.le_trans (Nat.le_add_left 1 m) hm)
    obtain ⟨hb, v, hv, htail⟩ := hrun.head
    have hrv : NoReset n v := EdgesMeet.after (m := 1) (by rwa [Nat.add_comm]) (run_succ_of_step hv)
    rw [run_succ_of_step hv]
    exact ih (h.of_busy_step hb (hr.edge_rst n.succ_pos) hv) htail hrv (Nat.le_of_succ_le_succ hm)

/-! ### The operation to its end -/

/-- The edge of acceptance (R101) in any idle state, with any input space. -/
theorem exists_step_accept_atRound (hp : s.ph = .idle) (hr : s.edge.rst = false) (hst : s.edge.start = true) :
    ∃ t, step s = .next t ∧ AtRound t ∧ t.LEN = s.edge.len ∧ t.r.val = 0 :=
  ⟨_, step_idle_encode hp hr hst, (atRound_toRound _).hostStore _, by simp, by simp⟩

/-- The rounds before the fifth, by induction on their number: each is a hash-and-rewrite pass and nothing else. -/
theorem exists_emptyRounds (h : AtScan 0 s) (hl : s.LEN = 0) (h0 : s.r.val = 0) (hr : NoReset 544 s) (n : Nat)
    (hn : n ≤ 4) : ∃ t, BusyRun (n * 136) s t ∧ AtScan 0 t ∧ t.LEN = 0 ∧ t.r.val = n := by
  induction n with
  | zero => exact ⟨s, by simpa using BusyRun.refl s, h, hl, h0⟩
  | succ n ih =>
    obtain ⟨t, hrun, hat, htl, htr⟩ := ih (by omega)
    have hrt : NoReset 136 t := (hr.mono (by omega)).after hrun.run_eq
    obtain ⟨u, hpass, hround, _, hur, hsame⟩ := exists_hashPass_round hat (by omega) hrt
    have hul : u.LEN = 0 := hsame.LEN.trans htl
    exact ⟨u, by simpa [Nat.succ_mul] using hrun.trans hpass, hround.atScan hul, hul, by rw [hur, htr]⟩

/-- `MAP 15` completes the operation with sixteen letters, whether or not the host changed the input (R162, R200). -/
theorem Mapped.exists_last_step_letters (h : Mapped 15 s t) (hr : t.edge.rst = false) :
    ∃ u, step t = .next u ∧ u.DONE = true ∧ ∀ m : Fin 16, isLetter u.OUT[m] = true := by
  have hl : ∀ m : Fin 16, isLetter (t.writeOUT t.k (mapByte t.S[t.k])).OUT[m] = true := fun m => by
    rw [h.writeOUT m m.isLt]
    exact isLetter_mapByte _
  rw [step_map h.ph hr, execMap_last h.k]
  exact ⟨_, rfl, rfl, isLetter_settleResult (s := t.pastEdge.writeOUT t.k (mapByte t.S[t.k])) hl⟩

theorem exists_mapPass_letters (hp : s.ph = .map) (hk : s.k = 0) (hr : NoReset 16 s) :
    ∃ t, BusyRun 16 s t ∧ t.DONE = true ∧ ∀ m : Fin 16, isLetter t.OUT[m] = true := by
  obtain ⟨t, hrun, hmap⟩ := exists_mapped hp hk hr 15 le_rfl
  have hrt : NoReset 1 t := EdgesMeet.after (m := 15) hr hrun.run_eq
  obtain ⟨u, hu, hdone⟩ := hmap.exists_last_step_letters (hrt.edge_rst one_pos)
  exact ⟨u, hrun.snoc (by simp [hmap.ph]) hu, hdone⟩

/-- The five passes and the mapping of an operation on the empty input. -/
theorem exists_emptyResult (h : AtScan 0 s) (hl : s.LEN = 0) (h0 : s.r.val = 0) (hr : NoReset 696 s) :
    ∃ t, BusyRun 696 s t ∧ t.DONE = true ∧ ∀ m : Fin 16, isLetter t.OUT[m] = true := by
  obtain ⟨t, hrounds, hat, _, htr⟩ := exists_emptyRounds h hl h0 (hr.mono (by omega)) 4 le_rfl
  have hrt : NoReset 152 t := EdgesMeet.after (m := 544) hr hrounds.run_eq
  obtain ⟨u, hpass, hup, huk, _, _⟩ := exists_hashPass_final hat htr (hrt.mono (by omega))
  have hru : NoReset 16 u := EdgesMeet.after (m := 136) hrt hpass.run_eq
  obtain ⟨v, hmap, hdone⟩ := exists_mapPass_letters hup huk hru
  exact ⟨v, (hrounds.trans hpass).trans hmap, hdone⟩

/-- `REWR 14` before the fifth round goes straight to `HSTEP 15` where the input is empty (R107, R133). -/
theorem NoMix.atScan_of_step_rewr (h : NoMix s) (hp : s.ph = .rewr) (hj : s.jw.val = 14) (h4 : s.r.val < 4)
    (hr : s.edge.rst = false) (hs : step s = .next t) : AtScan 0 t := by
  obtain ⟨u, hu, hround, _, _, hsame⟩ := exists_step_rewr_round hp hj h4 hr
  obtain rfl : u = t := by simpa [hu] using hs
  exact hround.atScan (hsame.LEN.trans h.LEN)

end

/-- Settles O37: the acceptance leads to the first scan, the 696 edges from there are a busy run, along which no edge leads to
`MIX`. -/
theorem emptyInputReadsNothing : Obligations.EmptyInputReadsNothing := by
  intro s p rest hp hpins hrst hst hlen hrest
  obtain rfl : s.edge = p := State.edge_cons hpins
  have hr : NoReset 697 s := by
    unfold NoReset EdgesMeet
    rw [hpins, List.take_succ_cons]
    exact List.forall_mem_cons.2 ⟨hrst, hrest⟩
  obtain ⟨t, ht, hround, htl, htr⟩ := exists_step_accept_atRound hp hrst hst
  rw [hlen] at htl
  have hat : AtScan 0 t := hround.atScan htl
  have hrt : NoReset 696 t := EdgesMeet.after (m := 1) hr (run_succ_of_step ht)
  obtain ⟨u, hrun, hdone, hletters⟩ := exists_emptyResult hat htl htr hrt
  have hnomix : ∀ m, m ≤ 696 → ∃ v, run (m + 1) s = .next v ∧ NoMix v := fun m hm => by
    rw [run_succ_of_step ht]
    exact (hat.noMix htl).of_busyRun hrun hrt hm
  refine ⟨fun n hn => ?_, fun n v w hn hv hw hcase => ?_, u, (run_succ_of_step ht).trans hrun.run_eq, hdone, hletters⟩
  · cases n with
    | zero => exact ⟨s, rfl, by simp [State.inReq, hp], by simp [hp]⟩
    | succ m =>
      obtain ⟨v, hv, hno⟩ := hnomix m (by omega)
      exact ⟨v, hv, by simp [State.inReq, hno.ph], hno.ph⟩
  · suffices hscan : AtScan 0 w from ⟨hscan.ph, hscan.i, Fin.ext hscan.jw⟩
    cases n with
    | zero =>
      obtain rfl : s = v := by simpa using hv
      obtain rfl : t = w := by simpa [ht] using hw
      exact hat
    | succ m =>
      obtain ⟨v', hv', hno⟩ := hnomix m (by omega)
      obtain rfl : v' = v := by simpa [hv'] using hv
      obtain ⟨hvp, hvj, hv4⟩ := hcase.resolve_left m.succ_ne_zero
      have hrv : NoReset 1 v' := (hr.mono (by omega)).after hv
      exact hno.atScan_of_step_rewr hvp hvj hv4 (hrv.edge_rst one_pos) hw

end Sys2Proof.Machine
end

section
/-! PROOFS. The hash step and the rewrite as single operations, sixteen hash steps as one evaluation of `pr_hash`, and the
pass of step 2b of R103: O9, O10, O30 and O32. -/

namespace Sys2Proof.Machine

/-! ### One `HSTEP` (R140, R141, R106) -/

theorem lowByte_eq_setWidth (h : HashWord) : lowByte h = h.setWidth 8 :=
  (BitVec.setWidth_eq_extractLsb' (by omega)).symm

theorem highByte_eq_setWidth_shift (h : HashWord) : highByte h = (h >>> 8).setWidth 8 := rfl

/-- R54: `LUT[n]` is entry `n` of the table. -/
theorem readLUT_ofNat (c : Config) (n : Fin 256) : readLUT c (BitVec.ofNat 8 n.val) = c.LUT[n] := by
  simp [readLUT]

/-- R140: where the two table reads are of one entry they cancel. -/
theorem hashStep_eq_shift_of_lowByte_eq {c : Config} {h : HashWord} {b : Byte} (hb : lowByte h = b) :
    hashStep c h b = h >>> 8 := by
  rw [hashStep, hb, BitVec.xor_assoc, BitVec.xor_self, BitVec.xor_zero]

theorem hashStep_eq (c : Config) (h : HashWord) (b : Byte) :
    hashStep c h b = (h >>> 8) ^^^ readLUT c (h.setWidth 8) ^^^ readLUT c b := by
  rw [hashStep, lowByte_eq_setWidth]

theorem val_sub_one_add_one {i : Fin 16} (hi : i.val ≠ 0) : (i - 1).val + 1 = i.val := by
  rw [Fin.val_sub_one_of_ne_zero (Fin.val_ne_zero_iff.1 hi)]
  omega

/-- Settles O9: both next states of an `HSTEP` have `hashStep` in `H`, and the sequencer moved on. -/
theorem hstepReplacesHash : Obligations.HstepReplacesHash := by
  refine ⟨readLUT_ofNat, fun s i => ⟨decode_uop_hstep i, ?_⟩⟩
  have hcancel : s.H.setWidth 8 = s.S[i] → hashStep s.cfg s.H s.S[i] = s.H >>> 8 := fun hb =>
    hashStep_eq_shift_of_lowByte_eq ((lowByte_eq_setWidth s.H).trans hb)
  by_cases hi : i.val = 0
  · simp only [if_pos hi]
    exact ⟨_, execHstep_last hi, hashStep_eq _ _ _, hcancel, ⟨rfl, rfl⟩,
      rfl, rfl, rfl, rfl, rfl, rfl, rfl, rfl, rfl, fun _ => rfl, rfl, rfl, rfl⟩
  · simp only [if_neg hi]
    exact ⟨_, execHstep_more hi, hashStep_eq _ _ _, hcancel, ⟨rfl, val_sub_one_add_one hi⟩,
      rfl, rfl, rfl, rfl, rfl, rfl, rfl, rfl, rfl, fun _ => rfl, rfl, rfl, rfl⟩

/-! ### One `REWR` (R144, R107) -/

/-- R144: the scratch bytes after `REWR`, by their numbers. -/
theorem State.rewrite_read_val (s : State) {jw : Fin 16} (he : jw.val % 2 = 0) (n : Fin 16) :
    (s.rewrite jw).S[n] = if n.val = jw.val then s.H.setWidth 8
      else if n.val = jw.val + 1 then (s.H >>> 8).setWidth 8 else s.S[n] := by
  rw [State.rewrite_read, lowByte_eq_setWidth, highByte_eq_setWidth_shift]
  simp only [Fin.ext_iff, rewriteHighIndex_val he]
  by_cases hn : n.val = jw.val
  · simp [hn]
  · simp [hn]

/-- Settles O10: the three next states of R107 are `rewrite` with the sequencer moved on; the next round starts with the
pass that `LEN` selects. -/
theorem rewrWritesHashLowByteFirst : Obligations.RewrWritesHashLowByteFirst := by
  refine fun s jw he hr => ⟨decode_uop_rewr he, ?_⟩
  have hS := s.rewrite_read_val he
  by_cases hj : jw.val < 14
  · simp only [if_pos hj]
    exact ⟨_, execRewr_more he hj, hS, rfl, ⟨rfl, Fin.val_add_eq_of_add_lt (Nat.add_lt_add_right hj 2), rfl, rfl, rfl, rfl⟩,
      rfl, rfl, rfl, rfl, fun _ => rfl, rfl, rfl, rfl⟩
  · simp only [if_neg hj]
    by_cases h4 : s.r.val < 4
    · have hr' : (s.r + 1).val = s.r.val + 1 := Fin.val_add_eq_of_add_lt (show s.r.val + 1 < 8 by omega)
      have hexec := execRewr_round he hj h4
      simp only [if_pos h4]
      by_cases hl : s.LEN = 0
      · rw [State.toRound_empty (s := (s.rewrite jw).setR (s.r + 1)) hl] at hexec
        simp only [if_pos hl]
        exact ⟨_, hexec, hS, rfl, ⟨hr', rfl, rfl, rfl, rfl, rfl⟩, rfl, rfl, rfl, rfl, fun _ => rfl, rfl, rfl, rfl⟩
      · rw [State.toRound_nonempty (s := (s.rewrite jw).setR (s.r + 1)) hl] at hexec
        simp only [if_neg hl]
        exact ⟨_, hexec, hS, rfl, ⟨hr', rfl, rfl, rfl, rfl, rfl⟩, rfl, rfl, rfl, rfl, fun _ => rfl, rfl, rfl, rfl⟩
    · simp only [if_neg h4]
      exact ⟨_, execRewr_final he hj (by omega), hS, rfl, ⟨rfl, rfl, rfl, rfl, rfl, rfl⟩,
        rfl, rfl, rfl, rfl, fun _ => rfl, rfl, rfl, rfl⟩

/-! ### Sixteen `HSTEP`s (R142) -/

/-- The first `n` steps of `pr_hash` fold `hstep` over the first `n` of the scratch indices 15, 14, ..., 0. -/
theorem prHashSteps_eq_foldl (c : Config) (S : Bytes16) (h : HashWord) (n : Nat) (hn : n ≤ 16) :
    prHashSteps c S n h = ((List.finRange 16).reverse.take n).foldl (fun h m => hashStep c h S[m]) h := by
  induction n with
  | zero => rfl
  | succ n ih =>
    have hget : (List.finRange 16).reverse[n]? = some ⟨15 - n, by omega⟩ := by
      rw [List.getElem?_eq_getElem (by simpa using hn)]
      simp
    rw [prHashSteps, ih (by omega), List.take_add_one, hget]
    simp

theorem prHash_eq_foldl (c : Config) (S : Bytes16) (h : HashWord) :
    prHash c S h = (List.finRange 16).reverse.foldl (fun h n => hashStep c h S[n]) h :=
  prHashSteps_eq_foldl c S h 16 le_rfl

/-- Settles O30: the scan leaves in `H` the sixteen steps of `pr_hash`, which are the fold. -/
theorem sixteenHstepsArePrHash : Obligations.SixteenHstepsArePrHash := by
  intro s hp hi hr
  obtain ⟨t, hrun, htp, hscan⟩ := exists_scan hp hi hr
  exact ⟨t, hrun.run_eq, hscan.H.trans (prHash_eq_foldl _ _ _), htp, hscan.S, hscan.jw, hscan.r, hscan.OUT, hscan.LEN,
    hscan.DONE⟩

/-! ### The hash-and-rewrite pass (R146, R148) -/

/-- R148: the last iteration of a pass leaves the hash value in the last two scratch bytes. -/
theorem hashPass_hash (c : Config) (w : Work) :
    (hashPass c w).hash = (hashPass c w).scratch[15] ++ (hashPass c w).scratch[14] := by
  have hlast : hashPass c w = hashRewrite c (hashPassSteps c 7 w) 7 := hashPassSteps_succ c 7 w
  rw [hlast]
  simp [hashRewrite, highByte_append_lowByte]

/-- The phase in which a round starts (R101, R107). -/
theorem AtRound.ph_eq {s : State} (h : AtRound s) : s.ph = if s.LEN = 0 then .hstep else .mix := by
  unfold AtRound at h
  split at h
  next hl => rw [if_pos hl, h.ph]
  next hl => rw [if_neg hl, h.1]

/-- What a pass leaves in `S` and `H`, read off the working data of the procedure. -/
theorem registers_of_work_eq_hashPass {c : Config} {w : Work} {t : State} (h : t.work = hashPass c w) :
    t.S = (hashPass c w).scratch ∧ t.H = (hashPass c w).hash ∧ t.H = t.S[15] ++ t.S[14] := by
  have hS : t.S = (hashPass c w).scratch := congrArg Work.scratch h
  have hH : t.H = (hashPass c w).hash := congrArg Work.hash h
  exact ⟨hS, hH, by rw [hS, hH, hashPass_hash]⟩

/-- Settles O32: the pass on the machine before the fifth round, and in it. -/
theorem hashPassRewritesTheScratch : Obligations.HashPassRewritesTheScratch := by
  intro s hp hj hi hr hpins
  have hat : AtScan 0 s := ⟨hp, hi, congrArg Fin.val hj⟩
  by_cases h4 : s.r.val < 4
  · simp only [if_pos h4]
    obtain ⟨t, hrun, hround, hw, htr, hsame⟩ := exists_hashPass_round hat h4 hpins
    obtain ⟨hS, hH, hlast⟩ := registers_of_work_eq_hashPass hw
    exact ⟨t, hrun.run_eq, hS, hH, hlast, ⟨htr, by rw [hround.ph_eq, hsame.LEN]⟩, hsame.LEN, hsame.OUT, hsame.DONE⟩
  · simp only [if_neg h4]
    obtain ⟨t, hrun, htp, htk, hw, hsame⟩ := exists_hashPass_final hat (by omega) hpins
    obtain ⟨hS, hH, hlast⟩ := registers_of_work_eq_hashPass hw
    exact ⟨t, hrun.run_eq, hS, hH, hlast, ⟨htp, htk⟩, hsame.LEN, hsame.OUT, hsame.DONE⟩

end Sys2Proof.Machine
end

section
/-! PROOFS. The mapper as arithmetic on the byte and its image, and the micro-operation `MAP`: O13, O14 and O11. -/

namespace Sys2Proof.Machine

/-! ### The mapper by numbers (R160) -/

/-- R12: the letter test on the code as a number. -/
theorem isLetter_iff (c : Byte) :
    isLetter c = true ↔ (0x41 ≤ c.toNat ∧ c.toNat ≤ 0x5A) ∨ (0x61 ≤ c.toNat ∧ c.toNat ≤ 0x7A) := by
  simp [isLetter, BitVec.le_def]

theorem maskedCode_toNat (b : Byte) : (maskedCode b).toNat = b.toNat % 128 := by
  have hmask : Config.mapMask.toNat = 2 ^ 7 - 1 := rfl
  rw [maskedCode, BitVec.toNat_and, hmask, Nat.and_two_pow_sub_one_eq_mod]

theorem topNibble_toNat (b : Byte) : (topNibble b).toNat = b.toNat / 16 := by
  rw [topNibble, BitVec.toNat_ushiftRight, Nat.shiftRight_eq_div_pow]

theorem topNibble_add_toNat (b : Byte) : (topNibble b + Config.mapOffset).toNat = b.toNat / 16 + 0x61 := by
  have hb := b.isLt
  have hoffset : Config.mapOffset.toNat = 0x61 := rfl
  rw [BitVec.toNat_add, topNibble_toNat, hoffset]
  omega

theorem mapByte_of_isLetter {b : Byte} (h : isLetter (maskedCode b) = true) : mapByte b = maskedCode b := if_pos h

theorem mapByte_of_not_isLetter {b : Byte} (h : ¬ isLetter (maskedCode b) = true) :
    mapByte b = topNibble b + Config.mapOffset := if_neg h

/-- Settles O13: the letter test is made on the masked code, which is the byte modulo 128; each branch of the mapper then has
its number. -/
theorem mapperIsMaskOrNibble : Obligations.MapperIsMaskOrNibble := by
  intro b
  have htest := isLetter_iff (maskedCode b)
  rw [maskedCode_toNat] at htest
  by_cases hl : isLetter (maskedCode b) = true
  · rw [if_pos (htest.1 hl), mapByte_of_isLetter hl, maskedCode_toNat]
  · rw [if_neg (mt htest.2 hl), mapByte_of_not_isLetter hl, topNibble_add_toNat]

/-! ### The image of the mapper (R162) -/

theorem toNat_lt_of_isLetter {c : Byte} (h : isLetter c = true) : c.toNat < 128 := by
  rcases (isLetter_iff c).1 h with ⟨_, hle⟩ | ⟨_, hle⟩ <;> omega

theorem getLsbD_seven_of_isLetter {c : Byte} (h : isLetter c = true) : c.getLsbD 7 = false :=
  Nat.testBit_lt_two_pow (toNat_lt_of_isLetter h)

/-- The mask takes nothing from a letter, so the mapper answers the letter itself. -/
theorem mapByte_eq_self_of_isLetter {c : Byte} (h : isLetter c = true) : mapByte c = c := by
  have hmask : maskedCode c = c :=
    BitVec.eq_of_toNat_eq ((maskedCode_toNat c).trans (Nat.mod_eq_of_lt (toNat_lt_of_isLetter h)))
  rw [mapByte_of_isLetter (by rwa [hmask]), hmask]

/-- Settles O14: the mapper answers letters, whose codes are below 128, and every letter is its own image. -/
theorem mapperImageIsTheLetters : Obligations.MapperImageIsTheLetters :=
  ⟨fun b => ⟨isLetter_mapByte b, getLsbD_seven_of_isLetter (isLetter_mapByte b)⟩,
    fun c hc => ⟨c, mapByte_eq_self_of_isLetter hc⟩⟩

/-! ### One `MAP` (R161, R108) -/

section
variable {s t : State} {k : Fin 16}

/-- R161: the result characters after the write of `MAP`. -/
theorem State.writeOUT_mapByte_read (s : State) (k n : Fin 16) :
    (s.writeOUT k (mapByte s.S[k])).OUT[n] = if n = k then mapByte s.S[n] else s.OUT[n] := by
  rw [State.writeOUT_read]
  by_cases hn : n = k
  · rw [if_pos hn, if_pos hn, hn]
  · rw [if_neg hn, if_neg hn]

/-- The last `MAP` of an operation whose input was changed leaves free letters (R200, X6). -/
theorem isLetter_of_execMap_changed (h : execMap k s = .next t) (hc : s.inputChanged = true) (hk : k.val = 15)
    (n : Fin 16) : isLetter t.OUT[n] = true := by
  rw [execMap_last hk, State.settleResult_changed (by simpa using hc)] at h
  cases h
  exact isLetter_freeLetters s.fresh n

/-- Every other `MAP` writes its one character and draws no free value (R161). -/
theorem execMap_character (h : execMap k s = .next t) (hs : ¬ (s.inputChanged = true ∧ k.val = 15)) :
    t.fresh = s.fresh ∧ ∀ n : Fin 16, t.OUT[n] = if n = k then mapByte s.S[n] else s.OUT[n] := by
  rcases execMap_cases h with ⟨hk, rfl⟩ | ⟨_, rfl⟩
  · have hc : s.inputChanged = false := Bool.eq_false_of_not_eq_true fun hc => hs ⟨hc, hk⟩
    rw [State.settleResult_stable (by simpa using hc)]
    exact ⟨rfl, s.writeOUT_mapByte_read k⟩
  · exact ⟨rfl, s.writeOUT_mapByte_read k⟩

/-- R108: the last `MAP` completes the operation, every other moves to the next character. -/
theorem execMap_sequencer (h : execMap k s = .next t) :
    if k.val = 15 then t.ph = .idle ∧ t.DONE = true ∧ t.k = s.k
    else t.ph = s.ph ∧ t.DONE = s.DONE ∧ t.k.val = k.val + 1 := by
  rcases execMap_cases h with ⟨hk, rfl⟩ | ⟨hk, rfl⟩
  · rw [if_pos hk]
    exact ⟨rfl, rfl, by simp⟩
  · rw [if_neg hk]
    exact ⟨rfl, rfl, Fin.val_add_eq_of_add_lt (show k.val + 1 < 16 by omega)⟩

/-- `MAP` leaves every register but `OUT`, `ph`, `k` and `DONE`. -/
theorem execMap_frame (h : execMap k s = .next t) :
    t.S = s.S ∧ t.H = s.H ∧ t.LEN = s.LEN ∧ t.r = s.r ∧ t.jm = s.jm ∧ t.jw = s.jw ∧ t.i = s.i ∧
      t.inputChanged = s.inputChanged := by
  rcases execMap_cases h with ⟨_, rfl⟩ | ⟨_, rfl⟩ <;> simp

/-! ### The way into the phase `MAP` (R107) -/

theorem toRound_ph_ne_map (s : State) : s.toRound.ph ≠ .map := by
  by_cases hl : s.LEN = 0
  · simp [State.toRound_empty hl]
  · simp [State.toRound_nonempty hl]

theorem execMix_ph_ne_map {jm : Nat} (h : execMix jm s = .next t) (hp : s.ph = .mix) : t.ph ≠ .map := by
  rcases execMix_cases h with ⟨_, rfl⟩ | ⟨_, rfl⟩ <;> simp [hp]

theorem execHstep_ph_ne_map {i : Fin 16} (h : execHstep i s = .next t) (hp : s.ph = .hstep) : t.ph ≠ .map := by
  rcases execHstep_cases h with ⟨_, rfl⟩ | ⟨_, rfl⟩ <;> simp [hp]

/-- Of the three next states of `REWR` only the one after the fifth round is in the phase `MAP`. -/
theorem execRewr_last_of_ph_map {n : Fin 16} (h : execRewr n s = .next t) (hp : t.ph = .map) :
    n.val = 14 ∧ s.r.val = 4 := by
  obtain ⟨_, ⟨_, rfl⟩ | ⟨_, _, rfl⟩ | ⟨h14, h4, rfl⟩⟩ := execRewr_cases h
  · cases hp
  · exact absurd hp (toRound_ph_ne_map _)
  · exact ⟨h14, h4⟩

/-- An edge that leads into the phase `MAP` is one of that phase or `REWR 14` in the fifth round. -/
theorem step_into_map (h : step s = .next t) (hp : t.ph = .map) :
    s.ph = .map ∨ (s.ph = .rewr ∧ s.jw.val = 14 ∧ s.r.val = 4) := by
  rcases step_cases h with ⟨_, rfl⟩ | ⟨_, h⟩
  · cases hp
  rcases h with ⟨_, _, rfl⟩ | ⟨_, _, rfl⟩ | ⟨_, _, rfl⟩ | ⟨hmix, _, u, hu, rfl⟩ | ⟨hhstep, u, hu, rfl⟩ |
    ⟨hrewr, u, hu, rfl⟩ | ⟨hmap, _⟩
  · exact .inl hp
  · exact absurd hp (toRound_ph_ne_map _)
  · exact .inl hp
  · have hne : u.ph ≠ .map := execMix_ph_ne_map hu hmix
    exact absurd hp hne
  · have hne : u.ph ≠ .map := execHstep_ph_ne_map hu hhstep
    exact absurd hp hne
  · have hlast : s.jw.val = 14 ∧ s.pastEdge.r.val = 4 := execRewr_last_of_ph_map hu hp
    exact .inr ⟨hrewr, hlast⟩
  · exact .inl hmap

end

/-- Settles O11: what `MAP` writes, where it leads and what it leaves, each a lemma about its next state; then the case split
over what an edge can do. -/
theorem mapWritesOneCharacter : Obligations.MapWritesOneCharacter := by
  refine ⟨fun s k => ⟨decode_uop_map k, ?_⟩, fun _ _ => step_into_map⟩
  obtain ⟨t, ht⟩ : ∃ t, execMap k s = .next t := ⟨_, rfl⟩
  obtain ⟨hS, hH, hLEN, hr, hjm, hjw, hi, hc⟩ := execMap_frame ht
  have hsame := SameSurroundings.of_execMap ht
  refine ⟨t, ht, ?_, execMap_sequencer ht, hS, hH, hLEN, hr, hjm, hjw, hi, hsame.cfg, hsame.readIN, hsame.pins, hc⟩
  split
  next hs => exact isLetter_of_execMap_changed ht hs.1 hs.2
  next hs => exact execMap_character ht hs

end Sys2Proof.Machine
end

section
/-! PROOFS. A command held over the edge that completes an operation: O19. -/

namespace Sys2Proof.Machine

section
variable {s : State}

/-- The edge of `MAP 15` completes the operation whatever command is presented there (R102, R108): the length register is
kept. -/
theorem exists_step_map_last (hp : s.ph = .map) (hk : s.k.val = 15) (hr : s.edge.rst = false) :
    ∃ t, step s = .next t ∧ t.ph = .idle ∧ t.DONE = true ∧ t.LEN = s.LEN := by
  rw [step_map hp hr, execMap_last hk]
  exact ⟨_, rfl, rfl, rfl, by simp⟩

/-- The edge that accepts `ENCODE` (R101): the earlier result is no longer shown, and the operation has the length presented
at that edge. -/
theorem exists_step_accept_initialised (hp : s.ph = .idle) (hr : s.edge.rst = false) (hst : s.edge.start = true) :
    ∃ t, step s = .next t ∧ t.DONE = false ∧ t.busy = true ∧ t.LEN = s.edge.len ∧ t.H = Config.hashInit :=
  ⟨_, step_idle_encode hp hr hst, by simp, busy_iff.2 (toRound_ph_ne_idle _), by simp, by simp⟩

end

/-- Settles O19: the completion leaves `IDLE` with the second sample at the head of the list, so the edge after it is an
acceptance. -/
theorem commandHeldIsAcceptedAfterDone : Obligations.CommandHeldIsAcceptedAfterDone := by
  intro s p q rest hp hk hpins hpr hqr hqs
  obtain rfl : s.edge = p := State.edge_cons hpins
  obtain ⟨t, ht, htp, htd, htl⟩ := exists_step_map_last hp hk hpr
  have htpins : t.pins = q :: rest := by rw [step_pins ht, hpins, List.tail_cons]
  obtain rfl : t.edge = q := State.edge_cons htpins
  obtain ⟨u, hu, haccepted⟩ := exists_step_accept_initialised htp hqr hqs
  exact ⟨t, u, ht, htp, htd, htl, hu, haccepted⟩

end Sys2Proof.Machine
end

section
/-! PROOFS. An edge with `rst` = 1, and a whole operation with a host that answers its reads as late as it likes: it ends, with
sixteen letters, and with the result of the procedure of R103 where the host kept the input: O17, O34 and O35. -/

namespace Sys2Proof.Machine

/-! ### Reset (R190) -/

/-- Settles O17: the state after the edge is `resetBlock` of what the edge found, and the host's stores come after it. -/
theorem resetEdgeClearsPhaseAndDone : Obligations.ResetEdgeClearsPhaseAndDone := by
  intro s hr
  refine ⟨_, step_rst hr, by simp, by simp, by simp [State.busy], by simp [State.done], by simp [State.inReq], by simp,
    by simp, fun hw a ha => ?_⟩
  exact State.hostStore_readIN_unstored (s := s.pastEdge.resetBlock) hw ha

/-! ### What all coming samples meet -/

/-- Every sample to come meets `P`. -/
def AllSamples (P : Pins → Prop) (s : State) : Prop := ∀ p ∈ s.pins, P p

/-- No reset at any coming edge. -/
abbrev NeverReset (s : State) : Prop := AllSamples (fun p => p.rst = false) s

section
variable {P : Pins → Prop} {m n k l : Nat} {s t u : State}

theorem AllSamples.edgesMeet (h : AllSamples P s) (n : Nat) : EdgesMeet P n s := fun p hp => h p (List.mem_of_mem_take hp)

theorem AllSamples.after (h : AllSamples P s) (hr : run n s = .next t) : AllSamples P t := fun p hp =>
  h p (List.mem_of_mem_drop (run_pins hr ▸ hp))

theorem AllSamples.of_step (h : AllSamples P s) (hs : step s = .next t) : AllSamples P t :=
  h.after (n := 1) (run_succ_of_step hs)

/-- At the next edge alone the host answers a read that is asked for there. -/
theorem readsAnswered_one (h : s.inReq = true → s.edge.inAck = true) : ReadsAnswered 1 s := fun m u hm hu hq => by
  obtain rfl : m = 0 := Nat.lt_one_iff.1 hm
  cases hu
  exact h hq

theorem NeverReset.edge_rst (h : NeverReset s) : s.edge.rst = false := (h.edgesMeet 1).edge one_pos rfl

/-! ### Runs in which the block may wait (R203, R206) -/

/-- A busy run of `k` operations and any number of waiting edges. Each waiting edge takes off a sample of the host, because a
host with no sample left answers at once (log entry 4), so the samples gone pay for the edges beyond `k`. -/
def DelayedRun (k : Nat) (s t : State) : Prop := ∃ n, BusyRun n s t ∧ n + t.pins.length ≤ k + s.pins.length

theorem BusyRun.delayed (h : BusyRun n s t) : DelayedRun n s t := by
  refine ⟨n, h, Nat.add_le_add_left ?_ n⟩
  rw [run_pins h.run_eq, List.length_drop]
  exact Nat.sub_le _ _

theorem DelayedRun.trans (h : DelayedRun k s t) (h' : DelayedRun l t u) : DelayedRun (k + l) s u := by
  obtain ⟨m, hm, hml⟩ := h
  obtain ⟨n, hn, hnl⟩ := h'
  exact ⟨m + n, hm.trans hn, by omega⟩

theorem DelayedRun.allSamples (h : DelayedRun k s t) (hs : AllSamples P s) : AllSamples P t := by
  obtain ⟨_, hrun, _⟩ := h
  exact hs.after hrun.run_eq

theorem DelayedRun.neverReset (h : DelayedRun k s t) (hs : NeverReset s) : NeverReset t := h.allSamples hs

theorem pins_ne_nil_of_noAck (ha : s.edge.inAck = false) : s.pins ≠ [] := fun hp => by
  rw [State.edge_nil hp] at ha
  cases ha

/-- A waiting edge is paid for by its own sample. -/
theorem DelayedRun.of_wait (hp : s.ph = .mix) (ha : s.edge.inAck = false) (h : step s = .next t) : DelayedRun 0 s t := by
  have hpos : 0 < s.pins.length := List.length_pos_iff.2 (pins_ne_nil_of_noAck ha)
  have hlen : t.pins.length = s.pins.length - 1 := by rw [step_pins h, List.length_tail]
  exact ⟨1, .of_step (by simp [hp]) h, by omega⟩

/-! ### `DONE` along a busy run, from any input space -/

/-- R108: the one operation that sets `DONE` leads to `IDLE`. -/
theorem done_of_busy_step (hb : s.ph ≠ .idle) (hr : s.edge.rst = false) (h : step s = .next t) (ht : t.ph ≠ .idle) :
    t.DONE = s.DONE := by
  obtain ⟨_, _, _, _, hdone, _⟩ := registersChangeOnlyByTheirWriters s t h hr
  by_contra hne
  rcases hdone hne with ⟨hp, _⟩ | ⟨hp, hk⟩
  · exact hb hp
  · obtain ⟨u, hu, hup, _⟩ := exists_step_map_last hp hk hr
    obtain rfl : t = u := by simpa [h] using hu
    exact ht hup

/-- `DONE` = 0 at the start of a busy run without reset is `DONE` = 0 wherever the block is busy. -/
theorem BusyRun.done_false_of_start (h : BusyRun n s t) (hr : NeverReset s) (hd : s.DONE = false) (hm : m < n) :
    ∃ u, run m s = .next u ∧ u.busy = true ∧ u.DONE = false := by
  induction m generalizing n s with
  | zero =>
    obtain ⟨n, rfl⟩ := Nat.exists_eq_add_of_le' hm
    exact ⟨s, rfl, busy_iff.2 h.head.1, hd⟩
  | succ m ih =>
    obtain ⟨n, rfl⟩ := Nat.exists_eq_add_of_le' (Nat.le_trans (Nat.le_add_left 2 m) hm)
    obtain ⟨hb, v, hv, htail⟩ := h.head
    have hvd : v.DONE = s.DONE := done_of_busy_step hb hr.edge_rst hv htail.head.1
    rw [run_succ_of_step hv]
    exact ih htail (hr.of_step hv) (hvd.trans hd) (by omega)

/-! ### A host that keeps the input to the end (R200) -/

/-- The `len` bytes of `input` are those of the operation in progress, and no sample to come changes them or resets. -/
structure HostKeeps (len : Nat) (input : Nat → Byte) (s : State) : Prop extends InputKept len input s where
  samples : AllSamples (Pins.stable len input) s

theorem HostKeeps.after {len : Nat} {input : Nat → Byte} (h : HostKeeps len input s) (hrun : DelayedRun k s t) :
    HostKeeps len input t := by
  refine ⟨?_, hrun.allSamples h.samples⟩
  obtain ⟨n, hbusy, _⟩ := hrun
  exact h.toInputKept.of_busyRun (h.samples.edgesMeet n) hbusy

/-- Such a host serves the next edge where it answers the read there. -/
theorem HostKeeps.served {len : Nat} {input : Nat → Byte} (h : HostKeeps len input s) (ha : s.edge.inAck = true) :
    Served len input 1 s :=
  ⟨h.toInputKept, h.samples.edgesMeet 1, readsAnswered_one fun _ => ha⟩

/-! ### The mix-in pass (R130, R131) -/

/-- Waiting for the host leaves the operation where it is. -/
structure Waited (s t : State) : Prop extends SameRound s t where
  ph : t.ph = s.ph
  jm : t.jm = s.jm
  work : t.work = s.work

/-- R206: the read of a `MIX` is answered in the end, by induction on the samples. -/
theorem exists_answered (hp : s.ph = .mix) (hr : NeverReset s) :
    ∃ t, DelayedRun 0 s t ∧ t.edge.inAck = true ∧ Waited s t := by
  obtain ⟨ps, hps⟩ : ∃ ps, s.pins = ps := ⟨_, rfl⟩
  induction ps generalizing s with
  | nil => exact ⟨s, (BusyRun.refl s).delayed, by rw [State.edge_nil hps]; rfl, .refl s, rfl, rfl, rfl⟩
  | cons p rest ih =>
    cases ha : s.edge.inAck with
    | true => exact ⟨s, (BusyRun.refl s).delayed, ha, .refl s, rfl, rfl, rfl⟩
    | false =>
      have hstep := step_wait hr.edge_rst (waiting_of_noAck hp ha)
      obtain ⟨t, hrun, hta, hsame, htp, htj, htw⟩ :=
        ih (s := s.pastEdge.hostStore s.edge) hp (hr.of_step hstep) (by simp [hps])
      exact ⟨t, (DelayedRun.of_wait hp ha hstep).trans hrun, hta, ⟨⟨hsame.LEN, hsame.OUT, hsame.DONE, hsame.cfg⟩, hsame.r⟩,
        htp, htj, htw⟩

/-- `n` operations of the mix-in pass begun in `s` have led to `t`, with the bytes of the input if the host keeps it. -/
structure MixedIfKept (n : Nat) (s t : State) : Prop extends SameRound s t where
  mixed : ∀ input, HostKeeps s.LEN input s → Mixed input n s t

theorem MixedIfKept.refl (s : State) : MixedIfKept 0 s s := ⟨.refl s, fun _ _ => ⟨.refl s, rfl⟩⟩

theorem Mixed.waited {input : Nat → Byte} (h : Mixed input n s t) (hw : Waited t u) : Mixed input n s u :=
  ⟨h.toSameRound.trans hw.toSameRound, hw.work.trans h.work⟩

/-- One more operation of the mix-in pass, when the host answers its read. -/
theorem MixedIfKept.exists_step (h : MixedIfKept n s t) (hrun : DelayedRun n s t) (hr : NeverReset s) (hp : t.ph = .mix)
    (hj : t.jm = n) (hn : n < s.LEN) :
    ∃ u, DelayedRun (n + 1) s u ∧ MixedIfKept (n + 1) s u ∧
      (if n + 1 = s.LEN then AtScan 0 u else u.ph = .mix ∧ u.jm = n + 1) := by
  obtain ⟨v, hwait, hva, hw⟩ := exists_answered hp (hrun.neverReset hr)
  have hvp : v.ph = .mix := hw.ph.trans hp
  have hvj : v.jm = n := hw.jm.trans hj
  have hvL : v.LEN = s.LEN := hw.LEN.trans h.LEN
  have hsv : DelayedRun n s v := hrun.trans hwait
  obtain ⟨u, hu, _, hsame, hnext⟩ :=
    exists_step_mix hvp (by rwa [hvj, hvL]) (hsv.neverReset hr).edge_rst hva
  rw [hvj, hvL] at hnext
  refine ⟨u, hsv.trans (BusyRun.of_step (by simp [hvp]) hu).delayed,
    ⟨(h.toSameRound.trans hw.toSameRound).trans hsame, fun input hk => ?_⟩, hnext⟩
  obtain ⟨u', hu', hmix, _⟩ := ((h.mixed input hk).waited hw).exists_step ((hk.after hsv).served hva) hvp hvj hn
  obtain rfl : u = u' := by simpa [hu] using hu'
  exact hmix

/-- The operations of the mix-in pass, by induction on their number. -/
theorem exists_mixedIfKept (hp : s.ph = .mix) (hj : s.jm = 0) (h0 : s.LEN ≠ 0) (hr : NeverReset s) (n : Nat)
    (hn : n ≤ s.LEN) :
    ∃ t, DelayedRun n s t ∧ MixedIfKept n s t ∧ (if n = s.LEN then AtScan 0 t else t.ph = .mix ∧ t.jm = n) := by
  induction n with
  | zero => exact ⟨s, (BusyRun.refl s).delayed, .refl s, by rw [if_neg h0.symm]; exact ⟨hp, hj⟩⟩
  | succ n ih =>
    obtain ⟨t, hrun, hmix, hat⟩ := ih (by omega)
    rw [if_neg (by omega)] at hat
    exact hmix.exists_step hrun hr hat.1 hat.2 hn

/-- The mix-in pass of a round, however late its reads are answered. -/
theorem exists_delayed_mixPass (h : AtRound s) (hr : NeverReset s) :
    ∃ t, DelayedRun s.LEN s t ∧ AtScan 0 t ∧ MixedIfKept s.LEN s t := by
  by_cases hl : s.LEN = 0
  · have hat : AtScan 0 s := h.atScan hl
    rw [hl]
    exact ⟨s, (BusyRun.refl s).delayed, hat, .refl s⟩
  · unfold AtRound at h
    rw [if_neg hl] at h
    obtain ⟨t, hrun, hmix, hat⟩ := exists_mixedIfKept h.1 h.2 hl hr s.LEN le_rfl
    rw [if_pos rfl] at hat
    exact ⟨t, hrun, hat, hmix⟩

/-! ### The five rounds (R103, R147) -/

/-- The hash-and-rewrite pass after a mix-in pass completes a round of the procedure. -/
theorem Mixed.hashPass_work {input : Nat → Byte} (h : Mixed input s.LEN s t) :
    hashPass t.cfg t.work = encodeRound s.cfg s.LEN input s.work := by
  rw [h.work, h.cfg]
  rfl

/-- `n` rounds begun in `s` have led to the start of the next one in `t`, with the data of the procedure if it began there and
the host keeps the input. -/
structure RoundsIfKept (n : Nat) (s t : State) : Prop extends SameOperation s t where
  at_round : AtRound t
  r : t.r.val = n
  work : ∀ input, HostKeeps s.LEN input s → s.work = Work.start → t.work = encodeRounds s.cfg s.LEN input n

/-- The next round up to its hash-and-rewrite pass. -/
theorem RoundsIfKept.exists_mixPass (h : RoundsIfKept n s t) (hrun : DelayedRun k s t) (hr : NeverReset s) :
    ∃ u, DelayedRun (k + s.LEN) s u ∧ AtScan 0 u ∧ u.r.val = n ∧ SameOperation s u ∧
      ∀ input, HostKeeps s.LEN input s → s.work = Work.start →
        hashPass u.cfg u.work = encodeRounds s.cfg s.LEN input (n + 1) := by
  obtain ⟨u, hmixRun, hat, hmix⟩ := exists_delayed_mixPass h.at_round (hrun.neverReset hr)
  rw [h.LEN] at hmixRun
  refine ⟨u, hrun.trans hmixRun, hat, by rw [hmix.r, h.r], h.toSameOperation.trans hmix.toSameOperation,
    fun input hk hstart => ?_⟩
  have hkt : HostKeeps t.LEN input t := by
    rw [h.LEN]
    exact hk.after hrun
  rw [(hmix.mixed input hkt).hashPass_work, h.cfg, h.LEN, h.work input hk hstart, encodeRounds]

/-- The rounds before the fifth, by induction on their number. -/
theorem exists_roundsIfKept (h : AtRound s) (h0 : s.r.val = 0) (hr : NeverReset s) (n : Nat) (hn : n ≤ 4) :
    ∃ t, DelayedRun (n * (s.LEN + 136)) s t ∧ RoundsIfKept n s t := by
  induction n with
  | zero =>
    rw [Nat.zero_mul]
    exact ⟨s, (BusyRun.refl s).delayed, ⟨rfl, rfl, rfl, rfl⟩, h, h0, fun _ _ hstart => hstart⟩
  | succ n ih =>
    obtain ⟨t, hrun, hrounds⟩ := ih (by omega)
    obtain ⟨u, hmixRun, hat, hur, hsame, hwork⟩ := hrounds.exists_mixPass hrun hr
    obtain ⟨v, hpass, hround, hvw, hvr, hsame'⟩ :=
      exists_hashPass_round hat (by omega) ((hmixRun.neverReset hr).edgesMeet 136)
    refine ⟨v, ?_, hsame.trans hsame', hround, by rw [hvr, hur], fun input hk hstart => ?_⟩
    · rw [Nat.succ_mul, ← Nat.add_assoc]
      exact hmixRun.trans hpass.delayed
    · rw [hvw, hwork input hk hstart]

/-- All five rounds, up to the mapping. -/
theorem exists_allRoundsIfKept (h : AtRound s) (h0 : s.r.val = 0) (hr : NeverReset s) :
    ∃ t, DelayedRun (5 * (s.LEN + 136)) s t ∧ t.ph = .map ∧ t.k = 0 ∧
      ∀ input, HostKeeps s.LEN input s → s.work = Work.start → t.work = encodeRounds s.cfg s.LEN input 5 := by
  obtain ⟨t, hrun, hrounds⟩ := exists_roundsIfKept h h0 hr 4 le_rfl
  obtain ⟨u, hmixRun, hat, hur, _, hwork⟩ := hrounds.exists_mixPass hrun hr
  obtain ⟨v, hpass, hvp, hvk, hvw, _⟩ := exists_hashPass_final hat hur ((hmixRun.neverReset hr).edgesMeet 136)
  have hlen : 5 * (s.LEN + 136) = 4 * (s.LEN + 136) + s.LEN + 136 := by omega
  rw [hlen]
  exact ⟨v, hmixRun.trans hpass.delayed, hvp, hvk, fun input hk hstart => by rw [hvw, hwork input hk hstart]⟩

/-! ### The mapping and the whole operation -/

/-- The sixteen `MAP`s complete the operation with letters, and with the mapped scratch bytes where the host has not changed
the input before the last of them (R165, R200). -/
theorem exists_completed (hp : s.ph = .map) (hk : s.k = 0) (hr : NeverReset s) :
    ∃ t, BusyRun 16 s t ∧ t.ph = .idle ∧ t.DONE = true ∧ (∀ m : Fin 16, isLetter t.OUT[m] = true) ∧
      ∀ len input, HostKeeps len input s → t.OUT = s.S.map mapByte := by
  obtain ⟨t, hrun, hmap⟩ := exists_mapped hp hk (hr.edgesMeet 16) 15 le_rfl
  have hrst : t.edge.rst = false := (hrun.delayed.neverReset hr).edge_rst
  obtain ⟨u, hu, hdone, hletters⟩ := hmap.exists_last_step_letters hrst
  obtain ⟨u', hu', hidle, _⟩ := exists_step_map_last hmap.ph hmap.k hrst
  obtain rfl : u = u' := by simpa [hu] using hu'
  refine ⟨u, hrun.snoc (by simp [hmap.ph]) hu, hidle, hdone, hletters, fun len input hkeep => ?_⟩
  obtain ⟨v, hv, _, _, hout⟩ := hmap.exists_last_step hrst (hkeep.after hrun.delayed).unchanged
  obtain rfl : u = v := by simpa [hu] using hv
  exact hout

/-- `t` is the end of an operation in progress in `s`: letters in any case, the result of the procedure if the operation began
there and the host keeps the input. -/
structure Completed (s t : State) : Prop where
  ph : t.ph = .idle
  DONE : t.DONE = true
  letters : ∀ m : Fin 16, isLetter t.OUT[m] = true
  result : ∀ input, HostKeeps s.LEN input s → s.work = Work.start → t.OUT = encodeBytes s.cfg s.LEN input

/-- An operation at its first round ends, however the host delays its answers (R206). -/
theorem exists_delayed_operation (h : AtRound s) (h0 : s.r.val = 0) (hr : NeverReset s) :
    ∃ t, DelayedRun (5 * s.LEN + 696) s t ∧ Completed s t := by
  obtain ⟨t, hrun, hp, hk, hwork⟩ := exists_allRoundsIfKept h h0 hr
  obtain ⟨u, hmap, hidle, hdone, hletters, hout⟩ := exists_completed hp hk (hrun.neverReset hr)
  have hlen : 5 * s.LEN + 696 = 5 * (s.LEN + 136) + 16 := by omega
  rw [hlen]
  refine ⟨u, hrun.trans hmap.delayed, hidle, hdone, hletters, fun input hkeep hstart => ?_⟩
  have hS : t.S = (encodeRounds s.cfg s.LEN input 5).scratch := congrArg Work.scratch (hwork input hkeep hstart)
  rw [hout _ input (hkeep.after hrun), hS]
  rfl

/-- From the edge of acceptance, which leads to `t`, to the end of the operation, with the block busy and `DONE` = 0 until
then. The edges beyond `5 * len + 697` are paid for by the samples that are left in `t`. -/
theorem exists_accepted_operation (hp : s.ph = .idle) (hst : s.edge.start = true) (hr : NeverReset s)
    (ht : step s = .next t) :
    ∃ n u, 1 ≤ n ∧ n ≤ t.pins.length + 5 * s.edge.len + 697 ∧ run n s = .next u ∧ Completed t u ∧
      ∀ m, 1 ≤ m → m < n → ∃ v, run m s = .next v ∧ v.busy = true ∧ v.DONE = false := by
  obtain ⟨t', ht', hround, hL, hr0⟩ := exists_step_accept_atRound hp hr.edge_rst hst
  obtain rfl : t = t' := by simpa [ht] using ht'
  obtain ⟨t', ht', hd, _⟩ := exists_step_accept_initialised hp hr.edge_rst hst
  obtain rfl : t = t' := by simpa [ht] using ht'
  have hrt : NeverReset t := hr.of_step ht
  obtain ⟨u, ⟨n, hrun, hn⟩, hcomp⟩ := exists_delayed_operation hround hr0 hrt
  rw [hL] at hn
  refine ⟨n + 1, u, Nat.le_add_left 1 n, by omega, (run_succ_of_step ht).trans hrun.run_eq, hcomp, fun m h1 hm => ?_⟩
  obtain ⟨m, rfl⟩ := Nat.exists_eq_add_of_le' h1
  rw [run_succ_of_step ht]
  exact hrun.done_false_of_start hrt hd (Nat.lt_of_succ_lt_succ hm)

/-- The state after the edge of acceptance, when the host keeps the input from that edge on: the operation begins with the
working data of the procedure. No read is asked for at that edge, so none is left unanswered. -/
theorem exists_step_accept_hostKeeps (hp : s.ph = .idle) (hst : s.edge.start = true) (hw : Memory.wf s.IN = true)
    (hs : AllSamples (Pins.stable s.edge.len s.readIN) s) :
    ∃ t, step s = .next t ∧ HostKeeps s.edge.len s.readIN t ∧ t.work = Work.start ∧ t.cfg = s.cfg := by
  have hanswered : ReadsAnswered 1 s := readsAnswered_one (by simp [State.inReq, hp])
  obtain ⟨t, ht, _, hserved, hrounds⟩ := exists_step_accept (n := 0) hp hst hw (hs.edgesMeet 1) hanswered
  exact ⟨t, ht, ⟨hserved.toInputKept, hs.of_step ht⟩, hrounds.work, hrounds.cfg⟩

end

/-! ### The obligations -/

/-- Settles O34: the operation ends within the bound, because every wait takes a sample off, and with the result of the
procedure, because the host keeps the input. -/
theorem everyOperationEnds : Obligations.EveryOperationEnds := by
  intro s p rest hp hpins hst hw hstable
  obtain rfl : s.edge = p := State.edge_cons hpins
  rw [← hpins] at hstable
  obtain ⟨t, ht, hkeep, hstart, hcfg⟩ := exists_step_accept_hostKeeps hp hst hw hstable
  obtain ⟨n, u, h1, hn, hrun, hcomp, hbusy⟩ := exists_accepted_operation hp hst (fun q hq => (hstable q hq).1) ht
  have hout := hcomp.result s.readIN (hkeep.LEN.symm ▸ hkeep) hstart
  rw [hcfg, hkeep.LEN] at hout
  rw [step_pins ht, hpins, List.tail_cons] at hn
  exact ⟨n, u, h1, hn, hrun, hcomp.DONE, hcomp.ph, hout, hbusy⟩

/-- Settles O35: the operation ends within the bound whatever the host stores, and the last `MAP` leaves letters. -/
theorem changedInputStillGivesSixteenLetters : Obligations.ChangedInputStillGivesSixteenLetters := by
  intro s p rest hp hpins hst hr
  obtain rfl : s.edge = p := State.edge_cons hpins
  obtain ⟨t, ht, _⟩ := exists_step_accept_atRound hp (NeverReset.edge_rst hr) hst
  obtain ⟨n, u, h1, hn, hrun, hcomp, hbusy⟩ := exists_accepted_operation hp hst hr ht
  rw [step_pins ht, hpins, List.tail_cons] at hn
  exact ⟨n, u, h1, hn, hrun, hcomp.DONE, hcomp.ph, hcomp.letters, hbusy⟩

end Sys2Proof.Machine
end
